-- ==== Sys2Proof/Word.lean ====
section
/-! DEFINITION. The words of the block and the names the spec numbers: byte, tag, pointer, command
word, response word, and the small closed sets (phases, buffers, domains, crossings, formats). No
behaviour stands here. -/

namespace Sys2Proof

/-- One byte: the unit of transfer (20_memory.md R72, R74). -/
abbrev Byte := BitVec 8

/-- A receive entry's error tag: bit 0 FE, 1 PE, 2 OVR, 3 BOVF (30_encoding.md R105). -/
abbrev Tag := BitVec 4

/-- A pointer, view or gray register of either ring buffer. The spec gives it `N + 1` bits with
`N <= 12` (10_state.md R21, 00_scope.md R6): the widest is 13 bits, and every operation of
`Machine/Pointer.lean` works modulo `2^(N+1)` inside these 13. -/
abbrev Ptr := BitVec 13

/-- A command word, format CMD19 (30_encoding.md R100). -/
abbrev CmdWord := BitVec 19

/-- A trigger vector, format EV4: rxc, RXCIE, dre, DREIE from bit 3 down (30_encoding.md R113). -/
abbrev EvWord := BitVec 4

/-- A response word, RES16 or STAT16 (30_encoding.md R103, R104). -/
abbrev RspWord := BitVec 16

/-- The two ring buffers (40_ring_buffer.md R140). -/
inductive Buf where
  | tx
  | rx
deriving DecidableEq, Repr, Inhabited

/-- The two clock domains: `clk_fg` and `clk_isr` (00_scope.md R3). -/
inductive Domain where
  | fg
  | isr
deriving DecidableEq, Repr, Inhabited

/-- The parts `RB.INIT` is done in (40_ring_buffer.md R141): the foreground's pointer at the
acceptance of OPEN, the foreground's view at OPEN's completion, and the interrupt half. -/
inductive InitPart where
  | fgAccept
  | fgComplete
  | isrHalf
deriving DecidableEq, Repr, Inhabited

/-- The six crossings between the domains (43_cdc_sync.md R220). -/
inductive Crossing where
  | txw
  | txr
  | rxw
  | rxr
  | req
  | ack
deriving DecidableEq, Repr, Inhabited

/-- The two interrupt sources, each wired to one handler (44_environment.md R250). -/
inductive Handler where
  | rxc
  | dre
deriving DecidableEq, Repr, Inhabited

/-- The three storages (20_memory.md R70). -/
inductive Space where
  | txmem
  | rxmem
  | rxtag
deriving DecidableEq, Repr, Inhabited

/-- `fg_phase` (10_state.md R31); values 6 and 7 of its three bits are never taken. -/
inductive FgPhase where
  | idle
  | sendWait
  | openInit
  | openWait
  | closeDrain
  | closeWait
deriving DecidableEq, Repr, Inhabited

/-- `isr_phase` (10_state.md R32). -/
inductive IsrPhase where
  | disabled
  | enabled
  | waitDre
  | settle
deriving DecidableEq, Repr, Inhabited

/-- `ERR_TAG_MODE` (00_scope.md R6). -/
inductive ErrTagMode where
  | latch
  | perByte
deriving DecidableEq, Repr, Inhabited

/-- The two levels of description, both normative (00_scope.md R11). -/
inductive Level where
  | agent
  | register
deriving DecidableEq, Repr, Inhabited

/-- The two formats a word is decoded from (30_encoding.md R114). -/
inductive Format where
  | cmd19
  | ev4
deriving DecidableEq, Repr, Inhabited

/-- What a READ response says, as the tagged type of 30_encoding.md R112: the byte or its absence,
and the flags `rsp[15:9]`. -/
structure ReadResult where
  hasData : Bool
  byte : Byte
  flags : BitVec 7
deriving DecidableEq, Repr, Inhabited

/-- What a ring-buffer primitive answers when it is taken by itself (40_ring_buffer.md R142 to
R147): a flag, an occupancy, or an entry with (receive buffer) its tag. -/
inductive RbAnswer where
  | none
  | flag (b : Bool)
  | count (n : Nat)
  | entry (b : Byte) (t : Option Tag)
deriving DecidableEq, Repr, Inhabited

end Sys2Proof
end

