-- ==== Sys2Proof/Syntax.lean ====
section
/-! DEFINITION. The operations of `spec/opcode_table.json`, one constructor per row. Operand fields are
what the rows' rules name; argument bits the spec calls ignored (30_encoding.md R102, R108) are no
operand. -/

namespace Sys2Proof

/-- One constructor per row of `spec/opcode_table.json`, in the table's order. -/
inductive Instr where
  /-- `NOP` (R171). -/
  | nop
  /-- `OPEN baud` (R172). -/
  | openLine (baud : BitVec 16)
  /-- `CLOSE` (R173). -/
  | closeLine
  /-- `SEND b` (R174). -/
  | send (b : Byte)
  /-- `READ` (R176). -/
  | read
  /-- `TXSTAT` (R177). -/
  | txstat
  /-- `RXSTAT` (R178). -/
  | rxstat
  /-- `RSVD7` (R179). -/
  | rsvd7
  /-- `SENDSEQ b0, ..., b(n-1)`, the host's pseudo-operation (R175). -/
  | sendseq (bs : List Byte)
  /-- `ISR.RXC` (R201); its operands are the inputs `rx_data`, `rx_err`. -/
  | isrRxc
  /-- `ISR.DRE` (R202). -/
  | isrDre
  /-- `RB.INIT` of a buffer, one of its parts (R141). -/
  | rbInit (b : Buf) (p : InitPart)
  /-- `RB.IS_FULL` of a buffer in a domain's opinion (R142). -/
  | rbIsFull (b : Buf) (d : Domain)
  /-- `RB.IS_EMPTY` of a buffer in a domain's opinion (R143). -/
  | rbIsEmpty (b : Buf) (d : Domain)
  /-- `RB.OCC` of a buffer in a domain's opinion (R144). -/
  | rbOcc (b : Buf) (d : Domain)
  /-- `RB.PUSH(b)` for TX, `RB.PUSH(b, t)` for RX; TX has no tag and its operand is 0 (R145). -/
  | rbPush (b : Buf) (d : Byte) (t : Tag)
  /-- `RB.POP` of a buffer (R147). -/
  | rbPop (b : Buf)
  /-- `CTL.ENABLE` (R203). -/
  | ctlEnable
  /-- `CTL.CLOSE1` (R204). -/
  | ctlClose1
  /-- `CTL.CLOSE2` (R205). -/
  | ctlClose2
  /-- `CTL.CLOSE3` (R206). -/
  | ctlClose3
  /-- `SYNC.TXW` with the value `x` the view advances to (R222). -/
  | syncTxw (x : Ptr)
  /-- `SYNC.TXR` with its value `x` (R223). -/
  | syncTxr (x : Ptr)
  /-- `SYNC.RXW` with its value `x` (R224). -/
  | syncRxw (x : Ptr)
  /-- `SYNC.RXR` with its value `x` (R225). -/
  | syncRxr (x : Ptr)
  /-- `SYNC.REQ` (R226). -/
  | syncReq
  /-- `SYNC.ACK` (R227). -/
  | syncAck
  /-- `ENV.RX_ARRIVE`, written `RX(d, e)` in traces: the byte and status drawn (R242). -/
  | envRxArrive (d : Byte) (e : BitVec 3)
  /-- `ENV.TX_READY`, written `TXRDY` in traces (R244). -/
  | envTxReady
deriving DecidableEq, Repr, Inhabited

end Sys2Proof
end

