-- ==== Sys2Proof/Decode.lean ====
section
/-! DEFINITION. The decoder of the command port (format CMD19) and of the interrupt wiring (format EV4),
total on any bits, and the encoder, both written from 30_encoding.md R100 to R102, R110 and R113. Rows
of format INTERNAL and PSEUDO have no encoding (R114). -/

namespace Sys2Proof

/-- Why bits are no instruction. -/
inductive DecodeErr where
  /-- Bits are set above the format's width: no such word reaches the port. -/
  | tooWide
  /-- A trigger vector that invokes neither handler (R113). -/
  | noTrigger
deriving DecidableEq, Repr

/-- The operation field `cmd[18:16]` (R100). -/
def opField (c : CmdWord) : BitVec 3 := c.extractLsb' 16 3

/-- The argument field `cmd[15:0]` (R100). -/
def argField (c : CmdWord) : BitVec 16 := c.extractLsb' 0 16

/-- The decoder of the command port: every 19-bit word is a command, decided by `cmd[18:16]` alone
(R101, R109); `OPEN` takes all of `arg`, `SEND` takes `arg[7:0]`, the rest ignore it (R102). -/
def decodeCmd (c : CmdWord) : Instr :=
  match (opField c).toNat with
  | 0 => .nop
  | 1 => .openLine (argField c)
  | 2 => .closeLine
  | 3 => .send ((argField c).extractLsb' 0 8)
  | 4 => .read
  | 5 => .txstat
  | 6 => .rxstat
  | _ => .rsvd7

/-- The wiring of the two handlers (R113): `ev & 0b1100 = 0b1100` invokes `ISR.RXC`,
`ev & 0b0011 = 0b0011` invokes `ISR.DRE`. Where both hold, both are invoked; this answers the one
first in the order of 42_isr_handlers.md R207. -/
def decodeEv (ev : EvWord) : Option Instr :=
  if ev &&& 0b1100#4 = 0b1100#4 then some .isrRxc
  else if ev &&& 0b0011#4 = 0b0011#4 then some .isrDre
  else none

/-- The decoder, total on any bits: it rejects by name. -/
def decode (f : Format) (w : Nat) : Except DecodeErr Instr :=
  match f with
  | .cmd19 => if w < 2 ^ 19 then .ok (decodeCmd (BitVec.ofNat 19 w)) else .error .tooWide
  | .ev4 =>
    if w < 2 ^ 4 then
      match decodeEv (BitVec.ofNat 4 w) with
      | some i => .ok i
      | none => .error .noTrigger
    else .error .tooWide

/-- The command word of `SEND b` (R110). -/
def sendWord (b : Byte) : CmdWord := 0x30000#19 ||| b.setWidth 19

/-- The command word of a command (R110): ignored argument bits are sent as zeros (R108). -/
def encodeCmd : Instr → Option CmdWord
  | .nop => some 0x00000#19
  | .openLine baud => some (0x10000#19 ||| baud.setWidth 19)
  | .closeLine => some 0x20000#19
  | .send b => some (sendWord b)
  | .read => some 0x40000#19
  | .txstat => some 0x50000#19
  | .rxstat => some 0x60000#19
  | .rsvd7 => some 0x70000#19
  | .sendseq _ => none
  | .isrRxc => none
  | .isrDre => none
  | .rbInit _ _ => none
  | .rbIsFull _ _ => none
  | .rbIsEmpty _ _ => none
  | .rbOcc _ _ => none
  | .rbPush _ _ _ => none
  | .rbPop _ => none
  | .ctlEnable => none
  | .ctlClose1 => none
  | .ctlClose2 => none
  | .ctlClose3 => none
  | .syncTxw _ => none
  | .syncTxr _ => none
  | .syncRxw _ => none
  | .syncRxr _ => none
  | .syncReq => none
  | .syncAck => none
  | .envRxArrive _ _ => none
  | .envTxReady => none

/-- The encoder: the format and the word of an instruction that has one. A handler's word is the
least trigger vector that invokes it (R113). -/
def encode (i : Instr) : Option (Format × Nat) :=
  match i with
  | .isrRxc => some (.ev4, 0b1100)
  | .isrDre => some (.ev4, 0b0011)
  | i => (encodeCmd i).map (fun c => (.cmd19, c.toNat))

/-- The format of an opcode-table word of `nbits` bits: a trigger vector fits one byte, a command word
takes three. -/
def tableFormat (nbits : Nat) : Format := if nbits ≤ 8 then .ev4 else .cmd19

/-- What the decoder reads from an instruction whose bits, numbered as `spec/opcode_table.json` numbers
them, are `w`. -/
def decodeTableWord (nbits w : Nat) : Option Instr :=
  match decode (tableFormat nbits) w with
  | .ok i => some i
  | .error _ => none

end Sys2Proof
end

