-- ==== Sys2Proof/Machine/Pointer.lean ====
section
/-! DEFINITION. Pointer arithmetic (00_scope.md R10, 40_ring_buffer.md R146): increment, distance,
index, gray code and its inverse, the order a view advances in, and the bit-by-bit sample of a source
that changes inside the sampling window. -/

namespace Sys2Proof.Machine

/-- The capacity `C = 2^N`. -/
def capacity (n : Nat) : Nat := 2 ^ n

/-- `p + 1` modulo `2^(N+1)` (R146). -/
def ptrInc (n : Nat) (p : Ptr) : Ptr := BitVec.ofNat 13 ((p.toNat + 1) % 2 ^ (n + 1))

/-- `p + k` modulo `2^(N+1)`: `k` increments of a pointer. -/
def ptrAdd (n : Nat) (p : Ptr) (k : Nat) : Ptr := BitVec.ofNat 13 ((p.toNat + k) % 2 ^ (n + 1))

/-- `p - 1` modulo `2^(N+1)`: the pointer of the newest entry before `p` (R224). -/
def ptrPred (n : Nat) (p : Ptr) : Ptr :=
  BitVec.ofNat 13 ((p.toNat + (2 ^ (n + 1) - 1)) % 2 ^ (n + 1))

/-- `occ(w, r) = (w - r) mod 2^(N+1)` (R10). -/
def occ (n : Nat) (w r : Ptr) : Nat := (w - r).toNat % 2 ^ (n + 1)

/-- `idx(p) = p & (C - 1)`: the low `N` bits of `p` (R10, R71). -/
def idx (n : Nat) (p : Ptr) : Nat := p.toNat % 2 ^ n

/-- `gray(b) = b ^ (b >> 1)` (R10, R107). -/
def gray (b : Ptr) : Ptr := b ^^^ (b >>> 1)

/-- The inverse of `gray` (R10). The doubling shifts add up every bit at or above a position, which is
the recursion `b[N] = g[N]`, `b[i] = b[i+1] ^ g[i]` taken all at once. -/
def ungray (g : Ptr) : Ptr :=
  let a := g ^^^ (g >>> 1)
  let b := a ^^^ (a >>> 2)
  let c := b ^^^ (b >>> 4)
  c ^^^ (c >>> 8)

/-- `between(v, x, p)`: going forward from `v`, `x` is reached no later than `p` (R10). -/
def between (n : Nat) (v x p : Ptr) : Bool := decide (occ n x v ≤ occ n p v)

/-- `p` is an `(N+1)`-bit value (R21). -/
def isPtr (n : Nat) (p : Ptr) : Bool := decide (p.toNat < 2 ^ (n + 1))

/-- The values a view at `v` may advance to when its original is at `p` (R221). -/
def mayAdvance (n : Nat) (v x p : Ptr) : Bool :=
  isPtr n x && decide (v ≠ p) && decide (x ≠ v) && between n v x p

/-- `sample(g)` of a source going from `old` to `new` inside the window: bit by bit, `old` where the
draw `m` says so and `new` elsewhere (43_cdc_sync.md R220). -/
def sampleBits (m old new : Ptr) : Ptr := (old &&& m) ||| (new &&& ~~~m)

/-- The same for a one-bit level. -/
def sampleLevel (m old new : Bool) : Bool := if m then old else new

/-- The full test on gray codes, for `N >= 1` (40_ring_buffer.md R150): equal after the two most
significant bits of one are inverted. -/
def grayFull (n : Nat) (w r : Ptr) : Bool :=
  decide (gray w = gray r ^^^ BitVec.ofNat 13 (3 <<< (n - 1)))

/-- The empty test on gray codes (40_ring_buffer.md R150). -/
def grayEmpty (w r : Ptr) : Bool := decide (gray r = gray w)

/-- One edge of a synchroniser chain `q[1..S]` held as the stages `q[1..S-1]` and the last stage:
`q[1] <- g`, `q[k] <- q[k-1]`; the answer is the new stages and the new last stage (R220). -/
def chainShift {α : Type} (g : α) (q : List α) : List α × α :=
  match q.getLast? with
  | none => ([], g)
  | some l => (g :: q.dropLast, l)

end Sys2Proof.Machine
end

