-- ==== Sys2Proof/Config.lean ====
section
/-! DEFINITION. What an instance fixes (the parameters of 00_scope.md R6), what the spec leaves free
(the settling delay's length, the schedule), and the events a schedule is made of: the steps of the
agents of 00_scope.md R12, a clock edge of the register level, and reset. -/

namespace Sys2Proof

/-- The parameters of one instance (00_scope.md R6), constant for its life. `BAUD_W` is fixed at 16
and stands in the types; `NUM_LINES` stands in `DeviceParams`.
`level` says which of the two normative descriptions the steps follow (R11). -/
structure Params where
  /-- `N_TX`, 0..12, default 5: `C_TX = 2^N_TX`. -/
  nTx : Nat
  /-- `N_RX`, 0..12, default 5: `C_RX = 2^N_RX`. -/
  nRx : Nat
  /-- `S`, at least 2, default 2: stages of every synchroniser. -/
  stages : Nat
  /-- `T_SETTLE`, 0..65535: an OPEN parameter with no default. -/
  tSettle : BitVec 16
  /-- `ERR_TAG_MODE`, default `LATCH`. -/
  errTagMode : ErrTagMode
  /-- Agent level or register level (00_scope.md R11). -/
  level : Level
deriving DecidableEq, Repr, Inhabited

/-- `T_SETTLE` where no one has given it: the spec leaves it OPEN (92_eei_decisions.md D16, U8). -/
opaque Config.tSettle : BitVec 16

/-- The parameters at their defaults (00_scope.md R6), at the agent level, which R11 expects a model
built for proofs to take. -/
def Params.default : Params where
  nTx := 5
  nRx := 5
  stages := 2
  tSettle := Config.tSettle
  errTagMode := .latch
  level := .agent

/-- Every parameter of 00_scope.md R6: those of an instance, and how many instances there are. The
instances are "structurally identical" (60_exceptions.md R276), so one set serves them all (assumption
log entry 16). -/
structure DeviceParams where
  /-- `NUM_LINES`, at least 1, default 1: the number of independent instances. -/
  numLines : Nat
  /-- What each instance has. -/
  line : Params
deriving DecidableEq, Repr, Inhabited

/-- The parameters at their defaults (00_scope.md R6): one line. -/
def DeviceParams.default : DeviceParams where
  numLines := 1
  line := Params.default

/-- Which clocks have an edge in one register-level step. `both` is two edges so close that a bit
changing at one of them falls into the other's sampling window (43_cdc_sync.md R220). -/
inductive ClockEdge where
  | fg
  | isr
  | both
deriving DecidableEq, Repr, Inhabited

/-- For each crossing, which bits of a source that changes inside the sampling window are caught at
their old value: the free draw of 43_cdc_sync.md R220. -/
structure Masks where
  txw : Ptr
  txr : Ptr
  rxw : Ptr
  rxr : Ptr
  req : Bool
  ack : Bool
deriving DecidableEq, Repr, Inhabited

/-- One entry of a schedule: which agent of 00_scope.md R12 steps next, with what it draws. -/
inductive Event where
  /-- HOST presents the next word of its list, or `w` if the list is empty (44_environment.md R249). -/
  | host (w : CmdWord)
  /-- HOST reaches a `SENDSEQ` line of its program (41_fg_commands.md R175). -/
  | hostSeq (bs : List Byte)
  /-- FG takes its step (agent level). -/
  | fg
  /-- A handler is invoked, if its trigger holds (agent level). -/
  | handler (h : Handler)
  /-- CTL takes the step its phase calls for (agent level). -/
  | ctl
  /-- SYNC advances the view of one crossing to `x` (agent level). -/
  | sync (c : Crossing) (x : Ptr)
  /-- ENV: a byte arrives with its error status. -/
  | rxArrive (d : Byte) (e : BitVec 3)
  /-- ENV: the transmit data register empties. -/
  | txReady
  /-- A clock edge (register level). -/
  | clock (k : ClockEdge) (m : Masks)
  /-- Both resets are asserted and released (70_reset_and_hazards.md R300). -/
  | reset
deriving DecidableEq, Repr, Inhabited

/-- The schedule where `State.sched` names no event: which agent steps next and what it draws is free
(00_scope.md R40, 93_implementation_defined.md U15, U16). The first argument is the instance's own
stream of draws, the second counts them: nothing ties the draws of one instance to another's
(60_exceptions.md R276; assumption log entries 2 and 16). -/
opaque Config.freeEvent : Nat → Nat → Event

end Sys2Proof
end

