-- ==== Sys2Proof/Machine/State.lean ====
section
/-! DEFINITION. The machine's state as plain data: every register, view, chain, storage, port and ghost
of 10_state.md, grouped by the clock domain that writes it (R20), with the serial unit's signals, the
host's side of the command port and the schedule; the reasons a step can stop; the state after reset. -/

namespace Sys2Proof.Machine

/-- A storage as plain data: (index, entry) pairs, indices strictly rising; an index not listed has
never been written and has no value (20_memory.md R86). -/
abbrev Mem (w : Nat) := List (Nat × BitVec w)

/-- Why a step can stop. Nothing in the block faults (00_scope.md R13); the one reason here marks a
read the spec proves never happens (20_memory.md R86). -/
inductive Fault where
  /-- A storage entry nothing has written since reset was read. Raised by `READ`, `ISR.DRE`,
  `RB.POP`, `SYNC.RXW` and a register-level `clk_fg` or `clk_isr` edge, only in states no run
  reaches. Safe: the model stops where the spec gives the entry no value. -/
  | unwrittenEntry (sp : Space) (i : Nat)
deriving DecidableEq, Repr

/-- Why a meaning can be refused. -/
inductive Refusal where
  /-- The instruction has no meaning yet. Raised by `exec`'s arm alone; safe. No arm raises it. -/
  | notModelled (mnemonic : String)
deriving DecidableEq, Repr

/-- The registers written in the `clk_fg` domain, and `tx_mem`, written there. -/
structure FgRegs where
  /-- `line_open` (R30). -/
  lineOpen : Bool
  /-- `fg_phase` (R31). -/
  phase : FgPhase
  /-- `cmd_hold` (R31). -/
  cmdHold : Byte
  /-- `baud_hold` (R31). -/
  baudHold : BitVec 16
  /-- `tx_mem` (R22). -/
  txMem : List Host.Cell
  /-- `tx_wptr` (R22). -/
  txWptr : Ptr
  /-- `rx_rptr` (R23). -/
  rxRptr : Ptr
  /-- `tx_rview`, the decoded last stage `q_txr[S]` (R26). -/
  txRview : Ptr
  /-- `rx_wview`, the decoded last stage `q_rxw[S]` (R26). -/
  rxWview : Ptr
  /-- `en_ack_view`, the last stage `q_ack[S]` (R26). -/
  enAckView : Bool
  /-- `rx_err_view` (R28). -/
  rxErrView : Byte
  /-- `en_req` (R35). -/
  enReq : Bool
  /-- `rsp` (R36). -/
  rsp : RspWord
  /-- `rsp_valid` (R36). -/
  rspValid : Bool
  /-- `portcfg` (R36). -/
  portcfg : Bool
  /-- `q_txr[1..S-1]`, gray-coded, register level (R26). -/
  qTxr : List Ptr
  /-- `q_rxw[1..S-1]`, gray-coded, register level (R26). -/
  qRxw : List Ptr
  /-- `q_ack[1..S-1]`, register level (R26). -/
  qAck : List Bool
deriving DecidableEq, Repr, Inhabited

/-- The registers written in the `clk_isr` domain, and `rx_mem`, `rx_tag`, written there. -/
structure IsrRegs where
  /-- `isr_phase` (R32). -/
  phase : IsrPhase
  /-- `settle_cnt` (R32, R274). -/
  settleCnt : BitVec 16
  /-- `BAUD` (R33). -/
  baud : BitVec 16
  /-- `CTRL.RXEN` (R33). -/
  rxen : Bool
  /-- `CTRL.TXEN` (R33). -/
  txen : Bool
  /-- `CTRL.RXCIE` (R33). -/
  rxcie : Bool
  /-- `CTRL.DREIE` (R33). -/
  dreie : Bool
  /-- `rx_mem` (R23). -/
  rxMem : List Host.Cell
  /-- `rx_tag` (R23). -/
  rxTag : List (Nat × BitVec 4)
  /-- `tx_rptr` (R22). -/
  txRptr : Ptr
  /-- `rx_wptr` (R23). -/
  rxWptr : Ptr
  /-- `tx_wview`, the decoded last stage `q_txw[S]` (R26). -/
  txWview : Ptr
  /-- `rx_rview`, the decoded last stage `q_rxr[S]` (R26). -/
  rxRview : Ptr
  /-- `en_req_view`, the last stage `q_req[S]` (R26). -/
  enReqView : Bool
  /-- `last_rx_error` (R27). -/
  lastRxError : Byte
  /-- `rx_drop_pending` (R29). -/
  rxDropPending : Bool
  /-- `en_ack` (R35). -/
  enAck : Bool
  /-- `q_txw[1..S-1]`, gray-coded, register level (R26). -/
  qTxw : List Ptr
  /-- `q_rxr[1..S-1]`, gray-coded, register level (R26). -/
  qRxr : List Ptr
  /-- `q_req[1..S-1]`, register level (R26). -/
  qReq : List Bool
deriving DecidableEq, Repr, Inhabited

/-- The serial unit's signals, inputs of the block (R34, 44_environment.md R241). -/
structure SerialUnit where
  /-- `rxc`, a received byte waits. -/
  rxc : Bool
  /-- `rx_data`. -/
  rxData : Byte
  /-- `rx_err`: bit 0 framing, 1 parity, 2 overflow. -/
  rxErr : BitVec 3
  /-- `dre`, the transmit data register can take a byte. -/
  dre : Bool
deriving DecidableEq, Repr, Inhabited

/-- The host's side of the command port (R37, 44_environment.md R249). -/
structure HostSide where
  /-- Input `cmd_valid`. -/
  cmdValid : Bool
  /-- Input `cmd`. -/
  cmd : CmdWord
  /-- The words of `SENDSEQ` lines the host has not presented yet (41_fg_commands.md R175). -/
  pending : List CmdWord
deriving DecidableEq, Repr, Inhabited

/-- Ghost observation state (R39), and the model's own record of what a ring-buffer primitive taken
by itself answered; no rule reads any of it. -/
structure Ghost where
  /-- `tx_sink`, oldest first. -/
  txSink : List Byte
  /-- `rx_source`, oldest first. -/
  rxSource : List (Byte × BitVec 3)
  /-- `portcfg_count`. -/
  portcfgCount : Nat
  /-- The answer of the last `RB.IS_FULL`, `RB.IS_EMPTY`, `RB.OCC` or `RB.POP` taken by itself. -/
  rbAnswer : RbAnswer
deriving DecidableEq, Repr, Inhabited

/-- One line instance with its environment and its schedule. The gray registers of R25 are
`gray` of their pointers and are computed (`Machine/Edge.lean`). -/
structure State where
  cfg : Params
  fg : FgRegs
  isr : IsrRegs
  ser : SerialUnit
  host : HostSide
  ghost : Ghost
  /-- The events to take next; where it is empty the next event is free. -/
  sched : List Event
  /-- How many free events have been drawn. -/
  tick : Nat
  /-- Which stream the free events are drawn from, the model's own field: the instances of one device
  draw from different ones (assumption log entries 2 and 16). -/
  stream : Nat
deriving DecidableEq, Repr, Inhabited

/-- The foreground registers after reset (R41). -/
def FgRegs.reset (c : Params) : FgRegs where
  lineOpen := false
  phase := .idle
  cmdHold := 0
  baudHold := 0
  txMem := []
  txWptr := 0
  rxRptr := 0
  txRview := 0
  rxWview := 0
  enAckView := false
  rxErrView := 0
  enReq := false
  rsp := 0
  rspValid := false
  portcfg := false
  qTxr := List.replicate (c.stages - 1) 0
  qRxw := List.replicate (c.stages - 1) 0
  qAck := List.replicate (c.stages - 1) false

/-- The interrupt-domain registers after reset (R41). -/
def IsrRegs.reset (c : Params) : IsrRegs where
  phase := .disabled
  settleCnt := 0
  baud := 0
  rxen := false
  txen := false
  rxcie := false
  dreie := false
  rxMem := []
  rxTag := []
  txRptr := 0
  rxWptr := 0
  txWview := 0
  rxRview := 0
  enReqView := false
  lastRxError := 0
  rxDropPending := false
  enAck := false
  qTxw := List.replicate (c.stages - 1) 0
  qRxr := List.replicate (c.stages - 1) 0
  qReq := List.replicate (c.stages - 1) false

/-- The serial unit as it leaves reset: `rxc = 0`, `dre = 1` (R41, 44_environment.md R241). -/
def SerialUnit.reset : SerialUnit where
  rxc := false
  rxData := 0
  rxErr := 0
  dre := true

/-- The ghost state after reset: empty lists, no strobe (R41). -/
def Ghost.reset : Ghost where
  txSink := []
  rxSource := []
  portcfgCount := 0
  rbAnswer := .none

/-- The state after reset of an instance with parameters `c`: every register as R41 lists it, the
storages never written, the host presenting nothing and no event scheduled. -/
def State.resetWith (c : Params) : State where
  cfg := c
  fg := FgRegs.reset c
  isr := IsrRegs.reset c
  ser := SerialUnit.reset
  host := { cmdValid := false, cmd := 0, pending := [] }
  ghost := Ghost.reset
  sched := []
  tick := 0
  stream := 0

/-- The state after reset at the default parameters (70_reset_and_hazards.md R301). -/
def State.reset : State := State.resetWith Params.default

end Sys2Proof.Machine
end

