-- ==== Sys2Proof/Machine/Flags.lean ====
section
/-! DEFINITION. Every flag of the spec as a function of the registers of one domain: the ring buffers'
opinions (40_ring_buffer.md R142 to R144), the flags of 10_state.md R38, the interrupt requests and
the trigger vector, and the words `CTRL`, `STATUS` and the phase codes of 30_encoding.md R106, R111. -/

namespace Sys2Proof.Machine

/-- `N` of a buffer (R140). -/
def State.bufN (s : State) : Buf → Nat
  | .tx => s.cfg.nTx
  | .rx => s.cfg.nRx

/-- The domain of a buffer's producer (R140). -/
def producer : Buf → Domain
  | .tx => .fg
  | .rx => .isr

/-- The domain of a buffer's consumer (R140). -/
def consumer : Buf → Domain
  | .tx => .isr
  | .rx => .fg

/-- The write pointer of a buffer as a domain knows it: `w` for the producer, `wv` for the consumer
(R140). -/
def State.wOf (s : State) : Buf → Domain → Ptr
  | .tx, .fg => s.fg.txWptr
  | .tx, .isr => s.isr.txWview
  | .rx, .isr => s.isr.rxWptr
  | .rx, .fg => s.fg.rxWview

/-- The read pointer of a buffer as a domain knows it: `rv` for the producer, `r` for the consumer
(R140). -/
def State.rOf (s : State) : Buf → Domain → Ptr
  | .tx, .fg => s.fg.txRview
  | .tx, .isr => s.isr.txRptr
  | .rx, .isr => s.isr.rxRview
  | .rx, .fg => s.fg.rxRptr

/-- `RB.OCC`: a domain's occupancy of a buffer (R144). -/
def State.occOf (s : State) (b : Buf) (d : Domain) : Nat := occ (s.bufN b) (s.wOf b d) (s.rOf b d)

/-- `RB.IS_FULL` in a domain's opinion: `occ = C` (R142). -/
def State.isFull (s : State) (b : Buf) (d : Domain) : Bool :=
  decide (s.occOf b d = capacity (s.bufN b))

/-- `RB.IS_EMPTY` in a domain's opinion: the pointers are equal (R143). -/
def State.isEmpty (s : State) (b : Buf) (d : Domain) : Bool := decide (s.wOf b d = s.rOf b d)

/-- `tx_full_fg` (R38). -/
def State.txFullFg (s : State) : Bool := s.isFull .tx .fg

/-- `tx_empty_fg` (R38). -/
def State.txEmptyFg (s : State) : Bool := s.isEmpty .tx .fg

/-- `tx_empty_isr` (R38). -/
def State.txEmptyIsr (s : State) : Bool := s.isEmpty .tx .isr

/-- `rx_full_isr` (R38). -/
def State.rxFullIsr (s : State) : Bool := s.isFull .rx .isr

/-- `rx_empty_fg` (R38). -/
def State.rxEmptyFg (s : State) : Bool := s.isEmpty .rx .fg

/-- `rx_full_fg` (R38). -/
def State.rxFullFg (s : State) : Bool := s.isFull .rx .fg

/-- The true occupancy `count = occ(wptr, rptr)`, a quantity no agent can read (R24). -/
def State.trueCount (s : State) : Buf → Nat
  | .tx => occ s.cfg.nTx s.fg.txWptr s.isr.txRptr
  | .rx => occ s.cfg.nRx s.isr.rxWptr s.fg.rxRptr

/-- `irq_rx = rxc & CTRL.RXCIE` (R37, R38). -/
def State.irqRx (s : State) : Bool := s.ser.rxc && s.isr.rxcie

/-- `irq_tx = dre & CTRL.DREIE` (R37, R38). -/
def State.irqTx (s : State) : Bool := s.ser.dre && s.isr.dreie

/-- Output `rx_rd`: 1 in the cycle in which `ISR.RXC` takes the byte (R37, R201). -/
def State.rxRd (s : State) : Bool := s.irqRx

/-- Output `tx_wr`: 1 in the cycle in which `ISR.DRE` hands a byte over (R37, R202). -/
def State.txWr (s : State) : Bool := s.irqTx && !s.txEmptyIsr

/-- Output `cmd_ready = (fg_phase == IDLE)` (R36). -/
def State.cmdReady (s : State) : Bool := decide (s.fg.phase = .idle)

/-- The trigger vector `ev[3:0]`, rxc, RXCIE, dre, DREIE from bit 3 down (30_encoding.md R113). -/
def State.ev (s : State) : EvWord :=
  BitVec.ofBool s.ser.rxc ++ (BitVec.ofBool s.isr.rxcie ++
    (BitVec.ofBool s.ser.dre ++ BitVec.ofBool s.isr.dreie))

/-- The bits of the trigger vector that belong to one handler (R113). -/
def handlerMask : Handler → EvWord
  | .rxc => 0b1100#4
  | .dre => 0b0011#4

/-- `CTRL` as a word: bit 0 RXEN, 1 TXEN, 2 RXCIE, 3 DREIE (30_encoding.md R106). -/
def State.ctrlWord (s : State) : BitVec 4 :=
  BitVec.ofBool s.isr.dreie ++ (BitVec.ofBool s.isr.rxcie ++
    (BitVec.ofBool s.isr.txen ++ BitVec.ofBool s.isr.rxen))

/-- `STATUS` as a word: bit 0 RXC, 1 DRE (30_encoding.md R106). -/
def State.statusWord (s : State) : BitVec 2 := BitVec.ofBool s.ser.dre ++ BitVec.ofBool s.ser.rxc

/-- The code of `fg_phase` (30_encoding.md R111). -/
def fgPhaseCode : FgPhase → BitVec 3
  | .idle => 0
  | .sendWait => 1
  | .openInit => 2
  | .openWait => 3
  | .closeDrain => 4
  | .closeWait => 5

/-- The code of `isr_phase` (30_encoding.md R111). -/
def isrPhaseCode : IsrPhase → BitVec 2
  | .disabled => 0
  | .enabled => 1
  | .waitDre => 2
  | .settle => 3

/-- The code of `ERR_TAG_MODE` (30_encoding.md R111). -/
def errTagModeCode : ErrTagMode → BitVec 1
  | .latch => 0
  | .perByte => 1

/-- The crossings into the interrupt domain are enabled (43_cdc_sync.md R228). -/
def State.isrCrossingsOn (s : State) : Bool := decide (s.isr.phase ≠ .disabled)

/-- The crossings into the foreground domain are enabled (43_cdc_sync.md R228). -/
def State.fgCrossingsOn (s : State) : Bool :=
  decide (s.fg.phase ≠ .openInit) && decide (s.fg.phase ≠ .openWait)

end Sys2Proof.Machine
end

