-- ==== Sys2Proof/Machine/Operands.lean ====
section
/-! DEFINITION. The words commands answer with and the fields they are made of: RES16 and STAT16
(30_encoding.md R103, R104), tags (R105), and the reading of a READ response (R112). -/

namespace Sys2Proof.Machine

/-- `0x0000`: done without error (R103). -/
def rspDone : RspWord := 0x0000#16

/-- `NO_DATA`, `rsp[8]` (R103). -/
def rspNoData : RspWord := 0x0100#16

/-- `NOT_OPEN`, `rsp[13]` (R103). -/
def rspNotOpen : RspWord := 0x2000#16

/-- `ALREADY_OPEN`, `rsp[14]` (R103). -/
def rspAlreadyOpen : RspWord := 0x4000#16

/-- `ILLEGAL`, `rsp[15]` (R103). -/
def rspIllegal : RspWord := 0x8000#16

/-- The tag bits in a response: `rsp[12:9] = tag[3:0]` (R105). -/
def rspFlags (e : Tag) : RspWord := e.setWidth 16 <<< 9

/-- The response of a READ that returns byte `b` with flags `e` (41_fg_commands.md R176). -/
def rspData (e : Tag) (b : Byte) : RspWord := rspFlags e ||| b.setWidth 16

/-- The response of a READ that finds the buffer empty (41_fg_commands.md R176). -/
def rspEmpty (errView : Byte) : RspWord := rspNoData ||| rspFlags (errView.extractLsb' 0 4)

/-- The flags a READ that returns data reports: the entry's own tag, or the single-slot latch
(41_fg_commands.md R176). -/
def readFlags (m : ErrTagMode) (t : Tag) (errView : Byte) : Tag :=
  match m with
  | .perByte => t
  | .latch => errView.extractLsb' 0 4

/-- A STAT16 word: FULL, EMPTY, NOT_OPEN and the 13 bits of OCC (R104). -/
def statWord (full empty closed : Bool) (o : Nat) : RspWord :=
  BitVec.ofBool full ++ (BitVec.ofBool empty ++ (BitVec.ofBool closed ++ BitVec.ofNat 13 o))

/-- The status word of a buffer in the foreground's opinion (41_fg_commands.md R177, R178). -/
def State.statOf (s : State) (b : Buf) : RspWord :=
  statWord (s.isFull b .fg) (s.isEmpty b .fg) (!s.fg.lineOpen) (s.occOf b .fg)

/-- The tag of a stored byte: BOVF from `rx_drop_pending`, then OVR, PE, FE (42_isr_handlers.md R201). -/
def rxTagOf (drop : Bool) (e : BitVec 3) : Tag := BitVec.ofBool drop ++ e

/-- A READ response as the tagged type of R112. -/
def readResult (r : RspWord) : ReadResult where
  hasData := !r.getLsbD 8
  byte := r.extractLsb' 0 8
  flags := r.extractLsb' 9 7

end Sys2Proof.Machine
end

