-- ==== Sys2Proof/Machine/Ops.lean ====
section
/-! DEFINITION. The shared operations: reading and writing a storage, answering a command, the
ring-buffer primitives (40_ring_buffer.md R141, R145, R147), and the register writes of the two
domains' sequencers. The block has no trap: an error is a response word (`State.respond`, 60_exceptions.md
R260), and a handler's entry and return are its one step (R271, R272). -/

namespace Sys2Proof.Machine

/-- The entry at an index, if it was ever written (20_memory.md R86). -/
def Mem.read {w : Nat} (m : Mem w) (i : Nat) : Option (BitVec w) :=
  match m with
  | [] => none
  | (j, b) :: t => if i = j then some b else Mem.read t i

/-- Write the entry at an index, keeping the indices strictly rising. -/
def Mem.write {w : Nat} (m : Mem w) (i : Nat) (b : BitVec w) : Mem w :=
  match m with
  | [] => [(i, b)]
  | (j, c) :: t =>
    if i < j then (i, b) :: (j, c) :: t
    else if i = j then (i, b) :: t
    else (j, c) :: Mem.write t i b

/-- The canonical form: indices strictly rising. An unlisted index has no value, so no listed entry
can equal what an unlisted one reads as. -/
abbrev Mem.wf {w : Nat} (m : Mem w) : Prop := m.Pairwise (fun x y => x.1 < y.1)

/-- Run `k` on the state an outcome goes on to. -/
def andThen (o : Host.Outcome State Fault Refusal)
    (k : State → Host.Outcome State Fault Refusal) : Host.Outcome State Fault Refusal :=
  match o with
  | .next s => k s
  | .fault f => .fault f
  | .refused r => .refused r

/-- `respond(v)`: the response word, its strobe, and the port idle again (00_scope.md R9). Raising an
error is responding with its bit (60_exceptions.md R260). -/
def State.respond (s : State) (v : RspWord) : State :=
  { s with fg := { s.fg with rsp := v, rspValid := true, phase := .idle } }

/-- A `clk_fg` edge at which FG completes nothing: `rsp_valid` lasts one cycle (10_state.md R36). -/
def State.fgHeld (s : State) : State := { s with fg := { s.fg with rspValid := false } }

/-- Foreground half of `RB.INIT` at OPEN's acceptance: the pointer the foreground owns (R141). -/
def State.initFgPtr (s : State) : Buf → State
  | .tx => { s with fg := { s.fg with txWptr := 0 } }
  | .rx => { s with fg := { s.fg with rxRptr := 0 } }

/-- Foreground half of `RB.INIT` at OPEN's completion: the view, and with it the whole chain
(R141, R172). -/
def State.initFgView (s : State) : Buf → State
  | .tx => { s with fg := { s.fg with txRview := 0, qTxr := List.replicate (s.cfg.stages - 1) 0 } }
  | .rx => { s with fg := { s.fg with rxWview := 0, qRxw := List.replicate (s.cfg.stages - 1) 0 } }

/-- Interrupt half of `RB.INIT`: the pointer and the view of the interrupt domain, and the view's
whole chain (R141, R203). -/
def State.initIsr (s : State) : Buf → State
  | .tx => { s with isr := { s.isr with
      txRptr := 0, txWview := 0, qTxw := List.replicate (s.cfg.stages - 1) 0 } }
  | .rx => { s with isr := { s.isr with
      rxWptr := 0, rxRview := 0, qRxr := List.replicate (s.cfg.stages - 1) 0 } }

/-- `RB.PUSH(TX, b)` past its precondition (R145). -/
def State.pushTx (s : State) (b : Byte) : State :=
  { s with fg := { s.fg with
      txMem := Mem.write (w := 8) s.fg.txMem (idx s.cfg.nTx s.fg.txWptr) b
      txWptr := ptrInc s.cfg.nTx s.fg.txWptr } }

/-- `RB.PUSH(RX, d, t)` past its precondition: byte and tag on one edge (R145, R72). -/
def State.pushRx (s : State) (d : Byte) (t : Tag) : State :=
  { s with isr := { s.isr with
      rxMem := Mem.write (w := 8) s.isr.rxMem (idx s.cfg.nRx s.isr.rxWptr) d
      rxTag := Mem.write s.isr.rxTag (idx s.cfg.nRx s.isr.rxWptr) t
      rxWptr := ptrInc s.cfg.nRx s.isr.rxWptr } }

/-- `RB.POP(TX)` past its precondition: the byte and the state with the pointer advanced (R147). -/
def State.popTx (s : State) : Except Fault (Byte × State) :=
  match Mem.read (w := 8) s.fg.txMem (idx s.cfg.nTx s.isr.txRptr) with
  | some b => .ok (b, { s with isr := { s.isr with txRptr := ptrInc s.cfg.nTx s.isr.txRptr } })
  | none => .error (.unwrittenEntry .txmem (idx s.cfg.nTx s.isr.txRptr))

/-- `RB.POP(RX)` past its precondition: byte, tag, and the state with the pointer advanced (R147). -/
def State.popRx (s : State) : Except Fault (Byte × Tag × State) :=
  match Mem.read (w := 8) s.isr.rxMem (idx s.cfg.nRx s.fg.rxRptr) with
  | none => .error (.unwrittenEntry .rxmem (idx s.cfg.nRx s.fg.rxRptr))
  | some b =>
    match Mem.read s.isr.rxTag (idx s.cfg.nRx s.fg.rxRptr) with
    | none => .error (.unwrittenEntry .rxtag (idx s.cfg.nRx s.fg.rxRptr))
    | some t =>
      .ok (b, t, { s with fg := { s.fg with rxRptr := ptrInc s.cfg.nRx s.fg.rxRptr } })

/-- The tag of the newest entry before the pointer value `x`: `rx_tag[idx(x - 1)]` (R224). -/
def State.newestTag (s : State) (x : Ptr) : Except Fault Tag :=
  match Mem.read s.isr.rxTag (idx s.cfg.nRx (ptrPred s.cfg.nRx x)) with
  | some t => .ok t
  | none => .error (.unwrittenEntry .rxtag (idx s.cfg.nRx (ptrPred s.cfg.nRx x)))

/-- Output `tx_data` while `tx_wr = 1`: the byte at `tx_rptr` (R37, R202); not meaningful otherwise. -/
def State.txData (s : State) : Option Byte :=
  if s.txWr then Mem.read (w := 8) s.fg.txMem (idx s.cfg.nTx s.isr.txRptr) else none

/-- The model's record of what a ring-buffer primitive taken by itself answered. -/
def State.answer (s : State) (a : RbAnswer) : State :=
  { s with ghost := { s.ghost with rbAnswer := a } }

/-- The serial unit takes the received byte back: `rx_rd` clears `rxc` (44_environment.md R243). -/
def State.takeRx (s : State) : State := { s with ser := { s.ser with rxc := false } }

/-- The serial unit takes `tx_data`: `tx_wr` clears `dre`, and the sink gains the byte
(44_environment.md R245). -/
def State.handOver (s : State) (b : Byte) : State :=
  { s with
    ser := { s.ser with dre := false }
    ghost := { s.ghost with txSink := s.ghost.txSink ++ [b] } }

/-- The effect of `CTL.ENABLE`, past its guard (42_isr_handlers.md R203). -/
def State.enableIsr (s : State) : State :=
  let t := (s.initIsr .tx).initIsr .rx
  { t with isr := { t.isr with
      lastRxError := 0, rxDropPending := false, baud := s.fg.baudHold
      rxen := true, txen := true, rxcie := true, dreie := false
      enAck := true, phase := .enabled } }

/-- The effect of `CTL.CLOSE1`, past its guard (R204). -/
def State.noteClose (s : State) : State := { s with isr := { s.isr with phase := .waitDre } }

/-- The effect of `CTL.CLOSE2`, past its guard (R205). -/
def State.startSettle (s : State) : State :=
  { s with isr := { s.isr with settleCnt := s.cfg.tSettle, phase := .settle } }

/-- One `clk_isr` edge of the settling delay, register level (R206, R274). -/
def State.settleTick (s : State) : State :=
  { s with isr := { s.isr with settleCnt := s.isr.settleCnt - 1 } }

/-- The effect of `CTL.CLOSE3`, past its guard: units and interrupts off; a byte waiting in the serial
unit is lost as `rxen` falls (R206, 44_environment.md R246). -/
def State.disableIsr (s : State) : State :=
  { s with
    isr := { s.isr with
      rxen := false, txen := false, rxcie := false, dreie := false
      enAck := false, phase := .disabled }
    ser := { s.ser with rxc := false } }

/-- The reset event: every register and the serial unit at its value after reset, the storages and the
parameters kept, the ghost lists emptied (70_reset_and_hazards.md R300, R303, R304). The host's inputs
and list are not the block's and stay. -/
def State.hardReset (s : State) : State :=
  { s with
    fg := { FgRegs.reset s.cfg with txMem := s.fg.txMem }
    isr := { IsrRegs.reset s.cfg with rxMem := s.isr.rxMem, rxTag := s.isr.rxTag }
    ser := { s.ser with rxc := false, dre := true }
    ghost := Ghost.reset }

end Sys2Proof.Machine
end

