-- ==== Sys2Proof/Machine/Ctl.lean ====
section
/-! DEFINITION. The enable/close controller CTL (42_isr_handlers.md R203 to R206). A step whose guard is
false is not taken. -/

namespace Sys2Proof.Machine

/-- `CTL.ENABLE` (R203). -/
def execCtlEnable (s : State) : Host.Outcome State Fault Refusal :=
  if decide (s.isr.phase = .disabled) && s.isr.enReqView then .next s.enableIsr else .next s

/-- `CTL.CLOSE1` (R204). -/
def execCtlClose1 (s : State) : Host.Outcome State Fault Refusal :=
  if decide (s.isr.phase = .enabled) && !s.isr.enReqView then .next s.noteClose else .next s

/-- `CTL.CLOSE2` (R205). -/
def execCtlClose2 (s : State) : Host.Outcome State Fault Refusal :=
  if decide (s.isr.phase = .waitDre) && s.ser.dre then .next s.startSettle else .next s

/-- `CTL.CLOSE3` (R206): at the agent level the disable, enabled throughout `SETTLE`; at the register
level one edge of the delay until the counter is 0. -/
def execCtlClose3 (s : State) : Host.Outcome State Fault Refusal :=
  if s.isr.phase ≠ .settle then .next s
  else
    match s.cfg.level with
    | .agent => .next s.disableIsr
    | .register => if s.isr.settleCnt ≠ 0 then .next s.settleTick else .next s.disableIsr

end Sys2Proof.Machine
end

