-- ==== Sys2Proof/Machine/Env.lean ====
section
/-! DEFINITION. The serial unit's own steps (44_environment.md R242, R244). A step whose guard is false is
not taken. -/

namespace Sys2Proof.Machine

/-- `ENV.RX_ARRIVE`: a byte arrives with its error status (R242). -/
def execEnvRxArrive (d : Byte) (e : BitVec 3) (s : State) : Host.Outcome State Fault Refusal :=
  if s.isr.rxen && !s.ser.rxc then
    .next { s with
      ser := { s.ser with rxc := true, rxData := d, rxErr := e }
      ghost := { s.ghost with rxSource := s.ghost.rxSource ++ [(d, e)] } }
  else .next s

/-- `ENV.TX_READY`: the transmit data register empties (R244). -/
def execEnvTxReady (s : State) : Host.Outcome State Fault Refusal :=
  if !s.ser.dre && s.isr.txen then .next { s with ser := { s.ser with dre := true } } else .next s

end Sys2Proof.Machine
end

