-- ==== Sys2Proof/Machine/Fg.lean ====
section
/-! DEFINITION. The foreground commands (41_fg_commands.md): one step of agent FG per `clk_fg` edge. A
command that holds goes on, at a later edge, from the phase it left (R180); where the port is busy with
another command nothing is accepted (R170). -/

namespace Sys2Proof.Machine

/-- A command that completes at its acceptance edge, answering `v`; at a busy port it is not accepted
(R170). -/
def State.atOnce (s : State) (v : RspWord) : Host.Outcome State Fault Refusal :=
  if s.cmdReady then .next (s.respond v) else .next s

/-- `NOP` (R171). -/
def execNop (s : State) : Host.Outcome State Fault Refusal := s.atOnce rspDone

/-- Step OPEN.1 of a line that is Closed: foreground half of `RB.INIT`, the baud value held, the strobe
to the port configurator (R172, 44_environment.md R247). -/
def State.openStart (s : State) (baud : BitVec 16) : State :=
  let t := (s.initFgPtr .tx).initFgPtr .rx
  { t with
    fg := { t.fg with baudHold := baud, portcfg := true, phase := .openInit, rspValid := false }
    ghost := { t.ghost with portcfgCount := t.ghost.portcfgCount + 1 } }

/-- Step OPEN.2 (R172). -/
def State.openRequest (s : State) : State :=
  { s with fg := { s.fg with portcfg := false, enReq := true, phase := .openWait, rspValid := false } }

/-- Step OPEN.3 (R172). -/
def State.openFinish (s : State) : State :=
  let t := (s.initFgView .tx).initFgView .rx
  ({ t with fg := { t.fg with rxErrView := 0, lineOpen := true } } : State).respond rspDone

/-- `OPEN baud` (R172): OPEN.1 at an idle port, OPEN.2 and OPEN.3 from the phases it left. -/
def execOpenLine (baud : BitVec 16) (s : State) : Host.Outcome State Fault Refusal :=
  match s.fg.phase with
  | .idle => if s.fg.lineOpen then .next (s.respond rspAlreadyOpen) else .next (s.openStart baud)
  | .openInit => .next s.openRequest
  | .openWait => if s.fg.enAckView then .next s.openFinish else .next s.fgHeld
  | .sendWait => .next s
  | .closeDrain => .next s
  | .closeWait => .next s

/-- Step CLOSE.1 of an Open line (R173). -/
def State.closeStart (s : State) : State :=
  { s with fg := { s.fg with phase := .closeDrain, rspValid := false } }

/-- Step CLOSE.2 (R173). -/
def State.closeRequest (s : State) : State :=
  { s with fg := { s.fg with enReq := false, phase := .closeWait, rspValid := false } }

/-- Step CLOSE.3 (R173). -/
def State.closeFinish (s : State) : State :=
  ({ s with fg := { s.fg with lineOpen := false } } : State).respond rspDone

/-- `CLOSE` (R173): CLOSE.1 at an idle port, CLOSE.2 and CLOSE.3 from the phases it left. -/
def execCloseLine (s : State) : Host.Outcome State Fault Refusal :=
  match s.fg.phase with
  | .idle => if s.fg.lineOpen then .next s.closeStart else .next (s.respond rspNotOpen)
  | .closeDrain => if s.txEmptyFg then .next s.closeRequest else .next s.fgHeld
  | .closeWait => if s.fg.enAckView then .next s.fgHeld else .next s.closeFinish
  | .sendWait => .next s
  | .openInit => .next s
  | .openWait => .next s

/-- Step SEND.1 of an Open line whose transmit buffer is full: the byte is held (R174). -/
def State.sendHold (s : State) (b : Byte) : State :=
  { s with fg := { s.fg with cmdHold := b, phase := .sendWait, rspValid := false } }

/-- `SEND b` (R174): SEND.1 at an idle port, SEND.2 (with the byte held) from `SEND_WAIT`. -/
def execSend (b : Byte) (s : State) : Host.Outcome State Fault Refusal :=
  match s.fg.phase with
  | .idle =>
    if !s.fg.lineOpen then .next (s.respond rspNotOpen)
    else if s.txFullFg then .next (s.sendHold b)
    else .next ((s.pushTx b).respond rspDone)
  | .sendWait =>
    if s.txFullFg then .next s.fgHeld else .next ((s.pushTx s.fg.cmdHold).respond rspDone)
  | .openInit => .next s
  | .openWait => .next s
  | .closeDrain => .next s
  | .closeWait => .next s

/-- `READ` (R176). -/
def execRead (s : State) : Host.Outcome State Fault Refusal :=
  if !s.cmdReady then .next s
  else if !s.fg.lineOpen then .next (s.respond (rspNotOpen ||| rspNoData))
  else if s.rxEmptyFg then .next (s.respond (rspEmpty s.fg.rxErrView))
  else
    match s.popRx with
    | .error f => .fault f
    | .ok (b, t, s') =>
      .next (s'.respond (rspData (readFlags s.cfg.errTagMode t s.fg.rxErrView) b))

/-- `TXSTAT` (R177). -/
def execTxstat (s : State) : Host.Outcome State Fault Refusal := s.atOnce (s.statOf .tx)

/-- `RXSTAT` (R178). -/
def execRxstat (s : State) : Host.Outcome State Fault Refusal := s.atOnce (s.statOf .rx)

/-- `RSVD7` (R179). -/
def execRsvd7 (s : State) : Host.Outcome State Fault Refusal := s.atOnce rspIllegal

/-- `SENDSEQ` (R175): the host takes the line's `SEND`s into its list, in order; HOST presents each when
the port is idle again, that is after the one before it has completed. -/
def execSendseq (bs : List Byte) (s : State) : Host.Outcome State Fault Refusal :=
  .next { s with host := { s.host with pending := s.host.pending ++ bs.map sendWord } }

end Sys2Proof.Machine
end

