-- ==== Sys2Proof/Machine/Isr.lean ====
section
/-! DEFINITION. The two handlers (42_isr_handlers.md): hardware invoked on a level, done in one step; the
response of the serial unit to `rx_rd` and `tx_wr` is part of the step (44_environment.md R243, R245).
A handler whose trigger is false is not invoked. -/

namespace Sys2Proof.Machine

/-- What `ISR.RXC` keeps of a byte it stores (R201). -/
def State.storeRx (s : State) : State :=
  let t := rxTagOf s.isr.rxDropPending s.ser.rxErr
  let s' := s.pushRx s.ser.rxData t
  { s' with isr := { s'.isr with rxDropPending := false, lastRxError := t.setWidth 8 } }

/-- What `ISR.RXC` keeps of a byte it drops (R201). -/
def State.dropRx (s : State) : State :=
  { s with isr := { s.isr with
      rxDropPending := true, lastRxError := (rxTagOf true s.ser.rxErr).setWidth 8 } }

/-- `ISR.RXC` (R201). -/
def execIsrRxc (s : State) : Host.Outcome State Fault Refusal :=
  if s.irqRx then .next (if s.rxFullIsr then s.dropRx else s.storeRx).takeRx else .next s

/-- `ISR.DRE` (R202). -/
def execIsrDre (s : State) : Host.Outcome State Fault Refusal :=
  if !s.irqTx then .next s
  else if s.txEmptyIsr then .next { s with isr := { s.isr with dreie := false } }
  else
    match s.popTx with
    | .error f => .fault f
    | .ok (b, s') => .next (s'.handOver b)

end Sys2Proof.Machine
end

