-- ==== Sys2Proof/Machine/Rb.lean ====
section
/-! DEFINITION. The ring-buffer primitives taken by themselves (40_ring_buffer.md). In the block they are
parts of the commands, handlers and controller steps, which use the same operations; no agent's step is a
primitive alone. What a primitive answers is recorded in the ghost `rbAnswer`. -/

namespace Sys2Proof.Machine

/-- `RB.INIT`, one part of one buffer (R141). -/
def execRbInit (b : Buf) (p : InitPart) (s : State) : Host.Outcome State Fault Refusal :=
  match p with
  | .fgAccept => .next (s.initFgPtr b)
  | .fgComplete => .next (s.initFgView b)
  | .isrHalf => .next (s.initIsr b)

/-- `RB.IS_FULL` (R142). -/
def execRbIsFull (b : Buf) (d : Domain) (s : State) : Host.Outcome State Fault Refusal :=
  .next (s.answer (.flag (s.isFull b d)))

/-- `RB.IS_EMPTY` (R143). -/
def execRbIsEmpty (b : Buf) (d : Domain) (s : State) : Host.Outcome State Fault Refusal :=
  .next (s.answer (.flag (s.isEmpty b d)))

/-- `RB.OCC` (R144). -/
def execRbOcc (b : Buf) (d : Domain) (s : State) : Host.Outcome State Fault Refusal :=
  .next (s.answer (.count (s.occOf b d)))

/-- `RB.PUSH` (R145): ignored on a buffer full in the producer's opinion. -/
def execRbPush (b : Buf) (d : Byte) (t : Tag) (s : State) : Host.Outcome State Fault Refusal :=
  if s.isFull b (producer b) then .next s
  else
    match b with
    | .tx => .next (s.pushTx d)
    | .rx => .next (s.pushRx d t)

/-- `RB.POP` (R147): ignored on a buffer empty in the consumer's opinion. -/
def execRbPop (b : Buf) (s : State) : Host.Outcome State Fault Refusal :=
  if s.isEmpty b (consumer b) then .next s
  else
    match b with
    | .tx =>
      match s.popTx with
      | .error f => .fault f
      | .ok (d, s') => .next (s'.answer (.entry d none))
    | .rx =>
      match s.popRx with
      | .error f => .fault f
      | .ok (d, t, s') => .next (s'.answer (.entry d (some t)))

end Sys2Proof.Machine
end

