-- ==== Sys2Proof/Machine/Sync.lean ====
section
/-! DEFINITION. The six crossings at the agent level (43_cdc_sync.md R221 to R228): a view advances to a
value between itself and its original. A step that its guard or its window forbids is not taken. -/

namespace Sys2Proof.Machine

/-- `SYNC.TXW`: the view advances and the transmit-empty interrupt is armed (R222). -/
def execSyncTxw (x : Ptr) (s : State) : Host.Outcome State Fault Refusal :=
  if s.isrCrossingsOn && mayAdvance s.cfg.nTx s.isr.txWview x s.fg.txWptr then
    .next { s with isr := { s.isr with txWview := x, dreie := true } }
  else .next s

/-- `SYNC.TXR` (R223). -/
def execSyncTxr (x : Ptr) (s : State) : Host.Outcome State Fault Refusal :=
  if s.fgCrossingsOn && mayAdvance s.cfg.nTx s.fg.txRview x s.isr.txRptr then
    .next { s with fg := { s.fg with txRview := x } }
  else .next s

/-- `SYNC.RXW`: the view advances and `rx_err_view` becomes the tag of the newest entry now visible
(R224). -/
def execSyncRxw (x : Ptr) (s : State) : Host.Outcome State Fault Refusal :=
  if s.fgCrossingsOn && mayAdvance s.cfg.nRx s.fg.rxWview x s.isr.rxWptr then
    match s.newestTag x with
    | .error f => .fault f
    | .ok t => .next { s with fg := { s.fg with rxWview := x, rxErrView := t.setWidth 8 } }
  else .next s

/-- `SYNC.RXR` (R225). -/
def execSyncRxr (x : Ptr) (s : State) : Host.Outcome State Fault Refusal :=
  if s.isrCrossingsOn && mayAdvance s.cfg.nRx s.isr.rxRview x s.fg.rxRptr then
    .next { s with isr := { s.isr with rxRview := x } }
  else .next s

/-- `SYNC.REQ`: always enabled; the view takes the level (R226). -/
def execSyncReq (s : State) : Host.Outcome State Fault Refusal :=
  .next { s with isr := { s.isr with enReqView := s.fg.enReq } }

/-- `SYNC.ACK`: always enabled; the view takes the level (R227). -/
def execSyncAck (s : State) : Host.Outcome State Fault Refusal :=
  .next { s with fg := { s.fg with enAckView := s.isr.enAck } }

end Sys2Proof.Machine
end

