-- ==== Sys2Proof/Machine/Dispatch.lean ====
section
/-! DEFINITION. The dispatch of every row of `spec/opcode_table.json` to its meaning. -/

namespace Sys2Proof.Machine

/-- One step of the operation `i`. -/
def exec (i : Instr) (s : State) : Host.Outcome State Fault Refusal :=
  match i with
  | .nop => Sys2Proof.Machine.execNop s
  | .openLine baud => Sys2Proof.Machine.execOpenLine baud s
  | .closeLine => Sys2Proof.Machine.execCloseLine s
  | .send b => Sys2Proof.Machine.execSend b s
  | .read => Sys2Proof.Machine.execRead s
  | .txstat => Sys2Proof.Machine.execTxstat s
  | .rxstat => Sys2Proof.Machine.execRxstat s
  | .rsvd7 => Sys2Proof.Machine.execRsvd7 s
  | .sendseq bs => Sys2Proof.Machine.execSendseq bs s
  | .isrRxc => Sys2Proof.Machine.execIsrRxc s
  | .isrDre => Sys2Proof.Machine.execIsrDre s
  | .rbInit b p => Sys2Proof.Machine.execRbInit b p s
  | .rbIsFull b d => Sys2Proof.Machine.execRbIsFull b d s
  | .rbIsEmpty b d => Sys2Proof.Machine.execRbIsEmpty b d s
  | .rbOcc b d => Sys2Proof.Machine.execRbOcc b d s
  | .rbPush b d t => Sys2Proof.Machine.execRbPush b d t s
  | .rbPop b => Sys2Proof.Machine.execRbPop b s
  | .ctlEnable => Sys2Proof.Machine.execCtlEnable s
  | .ctlClose1 => Sys2Proof.Machine.execCtlClose1 s
  | .ctlClose2 => Sys2Proof.Machine.execCtlClose2 s
  | .ctlClose3 => Sys2Proof.Machine.execCtlClose3 s
  | .syncTxw x => Sys2Proof.Machine.execSyncTxw x s
  | .syncTxr x => Sys2Proof.Machine.execSyncTxr x s
  | .syncRxw x => Sys2Proof.Machine.execSyncRxw x s
  | .syncRxr x => Sys2Proof.Machine.execSyncRxr x s
  | .syncReq => Sys2Proof.Machine.execSyncReq s
  | .syncAck => Sys2Proof.Machine.execSyncAck s
  | .envRxArrive d e => Sys2Proof.Machine.execEnvRxArrive d e s
  | .envTxReady => Sys2Proof.Machine.execEnvTxReady s

end Sys2Proof.Machine
end

