-- ==== Sys2Proof/Machine/Agents.lean ====
section
/-! DEFINITION. The agents of 00_scope.md R12: what each does when the schedule gives it the next step.
FG takes its instruction from the command port (41_fg_commands.md R170) or goes on with the command in
progress (R180); the handlers take theirs from the trigger vector (30_encoding.md R113); CTL's follows
its phase (42_isr_handlers.md R209). -/

namespace Sys2Proof.Machine

/-- The command in progress, by the phase it waits in (R180); none at an idle port. -/
def State.inProgress (s : State) : Option Instr :=
  match s.fg.phase with
  | .idle => none
  | .sendWait => some (.send s.fg.cmdHold)
  | .openInit => some (.openLine s.fg.baudHold)
  | .openWait => some (.openLine s.fg.baudHold)
  | .closeDrain => some .closeLine
  | .closeWait => some .closeLine

/-- The port takes the presented word: the host's `cmd_valid` falls (R170, 44_environment.md R249; assumption
log entry 20). The spec leaves open what `cmd` holds while `cmd_valid = 0`; the model keeps the accepted
word there (DESIGN CHOICE, the same entry). -/
def State.accept (s : State) : State := { s with host := { s.host with cmdValid := false } }

/-- FG's step: the command in progress goes on; else a presented word is accepted, decoded and run;
else the edge only ends the response strobe. -/
def fgStep (s : State) : Host.Outcome State Fault Refusal :=
  match s.inProgress with
  | some i => exec i s
  | none => if s.host.cmdValid then exec (decodeCmd s.host.cmd) s.accept else .next s.fgHeld

/-- A handler's step: what its bits of the trigger vector decode to, if anything. -/
def handlerStep (h : Handler) (s : State) : Host.Outcome State Fault Refusal :=
  match decodeEv (s.ev &&& handlerMask h) with
  | some i => exec i s
  | none => .next s

/-- CTL's operation in a phase (42_isr_handlers.md R209). -/
def ctlInstr : IsrPhase → Instr
  | .disabled => .ctlEnable
  | .enabled => .ctlClose1
  | .waitDre => .ctlClose2
  | .settle => .ctlClose3

/-- SYNC's operation on a crossing (43_cdc_sync.md R220). -/
def syncInstr (c : Crossing) (x : Ptr) : Instr :=
  match c with
  | .txw => .syncTxw x
  | .txr => .syncTxr x
  | .rxw => .syncRxw x
  | .rxr => .syncRxr x
  | .req => .syncReq
  | .ack => .syncAck

/-- HOST's step: when the port is idle and nothing is presented, present the next word of its list, or
any word `w` it likes (44_environment.md R249). -/
def hostPresent (w : CmdWord) (s : State) : State :=
  if s.cmdReady && !s.host.cmdValid then
    match s.host.pending with
    | c :: rest => { s with host := { cmdValid := true, cmd := c, pending := rest } }
    | [] => { s with host := { s.host with cmdValid := true, cmd := w } }
  else s

/-- Where a view's original stands: the value an eager SYNC step advances it to (43_cdc_sync.md R232). -/
def State.original (s : State) : Crossing → Ptr
  | .txw => s.fg.txWptr
  | .txr => s.isr.txRptr
  | .rxw => s.isr.rxWptr
  | .rxr => s.fg.rxRptr
  | .req => 0
  | .ack => 0

/-- Every enabled SYNC step with `x = p`, once: the eager-sync schedule's answer to a step of another
agent (43_cdc_sync.md R232). -/
def eagerSync (s : State) : Host.Outcome State Fault Refusal :=
  andThen (exec (syncInstr .txw (s.original .txw)) s) fun s =>
  andThen (exec (syncInstr .txr (s.original .txr)) s) fun s =>
  andThen (exec (syncInstr .rxw (s.original .rxw)) s) fun s =>
  andThen (exec (syncInstr .rxr (s.original .rxr)) s) fun s =>
  andThen (exec (syncInstr .req 0) s) fun s => exec (syncInstr .ack 0) s

end Sys2Proof.Machine
end

