-- ==== Sys2Proof/Machine/Edge.lean ====
section
/-! DEFINITION. The register level (43_cdc_sync.md R220): the gray registers, the synchroniser chains, and
one clock edge of either domain with everything that falls on it (41_fg_commands.md R183,
42_isr_handlers.md R207). -/

namespace Sys2Proof.Machine

/-- What the chains of the foreground domain sample at an edge (R220). -/
structure FgSample where
  txr : Ptr
  rxw : Ptr
  ack : Bool
deriving DecidableEq, Repr

/-- What the chains of the interrupt domain sample at an edge (R220). -/
structure IsrSample where
  txw : Ptr
  rxr : Ptr
  req : Bool
deriving DecidableEq, Repr

/-- `tx_wgray` (10_state.md R25). -/
def State.txWgray (s : State) : Ptr := gray s.fg.txWptr

/-- `tx_rgray` (10_state.md R25). -/
def State.txRgray (s : State) : Ptr := gray s.isr.txRptr

/-- `rx_wgray` (10_state.md R25). -/
def State.rxWgray (s : State) : Ptr := gray s.isr.rxWptr

/-- `rx_rgray` (10_state.md R25). -/
def State.rxRgray (s : State) : Ptr := gray s.fg.rxRptr

/-- The sources of the chains into the foreground domain (R220). -/
def State.fgSource (s : State) : FgSample where
  txr := s.txRgray
  rxw := s.rxWgray
  ack := s.isr.enAck

/-- The sources of the chains into the interrupt domain (R220). -/
def State.isrSource (s : State) : IsrSample where
  txw := s.txWgray
  rxr := s.rxRgray
  req := s.fg.enReq

/-- Sources caught while they change, by the draw `m` (R220). -/
def FgSample.mix (m : Masks) (old new : FgSample) : FgSample where
  txr := sampleBits m.txr old.txr new.txr
  rxw := sampleBits m.rxw old.rxw new.rxw
  ack := sampleLevel m.ack old.ack new.ack

/-- Sources caught while they change, by the draw `m` (R220). -/
def IsrSample.mix (m : Masks) (old new : IsrSample) : IsrSample where
  txw := sampleBits m.txw old.txw new.txw
  rxr := sampleBits m.rxr old.rxr new.rxr
  req := sampleLevel m.req old.req new.req

/-- OPEN.3 completes on this edge (R172). -/
def State.openFinishes (s : State) : Bool := decide (s.fg.phase = .openWait) && s.fg.enAckView

/-- `rx_err_view` on a `clk_fg` edge whose chain brings the view to `x`: the side effect of the last
stage, gated by the phase before the edge (R220). -/
def State.errViewAt (s : State) (x : Ptr) : Except Fault Byte :=
  if s.fgCrossingsOn && decide (x ≠ s.fg.rxWview) then
    match s.newestTag x with
    | .ok t => .ok (t.setWidth 8)
    | .error f => .error f
  else .ok s.fg.rxErrView

/-- The chains of the foreground domain on one `clk_fg` edge, from the state `old` before it, applied to
the state `s` FG's step leaves; OPEN.3's clear wins over the chains it clears (R183). -/
def fgChains (g : FgSample) (old s : State) : Host.Outcome State Fault Refusal :=
  let ack := chainShift g.ack old.fg.qAck
  if old.openFinishes then
    .next { s with fg := { s.fg with qAck := ack.1, enAckView := ack.2 } }
  else
    let txr := chainShift g.txr old.fg.qTxr
    let rxw := chainShift g.rxw old.fg.qRxw
    match old.errViewAt (ungray rxw.2) with
    | .error f => .fault f
    | .ok e =>
      .next { s with fg := { s.fg with
        qTxr := txr.1, txRview := ungray txr.2
        qRxw := rxw.1, rxWview := ungray rxw.2, rxErrView := e
        qAck := ack.1, enAckView := ack.2 } }

/-- One `clk_fg` edge at which the chains sample `g`: FG's step, then the chains (R183). -/
def fgEdge (g : FgSample) (s : State) : Host.Outcome State Fault Refusal :=
  andThen (fgStep s) (fgChains g s)

/-- The chains of the interrupt domain on one `clk_isr` edge, from the state `old` before it; a new
value in the last stage of `q_txw` arms the transmit-empty interrupt (R220, R222). -/
def isrChains (g : IsrSample) (old s : State) : State :=
  let txw := chainShift g.txw old.isr.qTxw
  let rxr := chainShift g.rxr old.isr.qRxr
  let req := chainShift g.req old.isr.qReq
  { s with isr := { s.isr with
    qTxw := txw.1, txWview := ungray txw.2
    qRxr := rxr.1, rxRview := ungray rxr.2
    qReq := req.1, enReqView := req.2
    dreie := if old.isrCrossingsOn && decide (ungray txw.2 ≠ old.isr.txWview) then true
      else s.isr.dreie } }

/-- CTL on one `clk_isr` edge: the step the state `old` before the edge enables, applied last
(42_isr_handlers.md R207, R209). -/
def ctlOnEdge (old s : State) : State :=
  match old.isr.phase with
  | .disabled => if old.isr.enReqView then s.enableIsr else s
  | .enabled => if old.isr.enReqView then s else s.noteClose
  | .waitDre => if old.ser.dre then s.startSettle else s
  | .settle => if old.isr.settleCnt ≠ 0 then s.settleTick else s.disableIsr

/-- One `clk_isr` edge at which the chains sample `g`: `ISR.RXC`, `ISR.DRE`, the chains, CTL, in the
order of R207. -/
def isrEdge (g : IsrSample) (s : State) : Host.Outcome State Fault Refusal :=
  andThen (exec .isrRxc s) fun a =>
  andThen (exec .isrDre a) fun b => .next (ctlOnEdge s (isrChains g s b))

/-- Edges of both clocks inside one sampling window: each domain reads its own state before the edge,
and a source that changes is caught bit by bit at its old or its new value (R220). -/
def bothEdges (m : Masks) (s : State) : Host.Outcome State Fault Refusal :=
  andThen (fgEdge s.fgSource s) fun f =>
  andThen (isrEdge s.isrSource s) fun i =>
  andThen (fgEdge (FgSample.mix m s.fgSource i.fgSource) s) fun t =>
    isrEdge (IsrSample.mix m s.isrSource f.isrSource) t

/-- One register-level step. -/
def clockStep (k : ClockEdge) (m : Masks) (s : State) : Host.Outcome State Fault Refusal :=
  match k with
  | .fg => fgEdge s.fgSource s
  | .isr => isrEdge s.isrSource s
  | .both => bothEdges m s

end Sys2Proof.Machine
end

