-- ==== Sys2Proof/Machine/Event.lean ====
section
/-! DEFINITION. What one event of a schedule does. The agents' own steps belong to the agent level and
clock edges to the register level (00_scope.md R11); the environment, the host and reset act at both. An
event of the other level, or of an agent with no enabled step, leaves the state as it is. -/

namespace Sys2Proof.Machine

/-- `o` at the level `l`, nothing at the other. -/
def atLevel (l : Level) (s : State) (o : Host.Outcome State Fault Refusal) :
    Host.Outcome State Fault Refusal :=
  if s.cfg.level = l then o else .next s

/-- The step an event of the schedule takes. -/
def stepEvent (e : Event) (s : State) : Host.Outcome State Fault Refusal :=
  match e with
  | .host w => .next (hostPresent w s)
  | .hostSeq bs => exec (.sendseq bs) s
  | .fg => atLevel .agent s (fgStep s)
  | .handler h => atLevel .agent s (handlerStep h s)
  | .ctl => atLevel .agent s (exec (ctlInstr s.isr.phase) s)
  | .sync c x => atLevel .agent s (exec (syncInstr c x) s)
  | .rxArrive d e => exec (.envRxArrive d e) s
  | .txReady => exec .envTxReady s
  | .clock k m => atLevel .register s (clockStep k m s)
  | .reset => .next s.hardReset

/-- The next event: the schedule's first, or, where the schedule is empty, a free one of this instance's
own stream (assumption log entry 2; for several instances, entry 16). -/
def State.nextEvent (s : State) : Event :=
  match s.sched with
  | e :: _ => e
  | [] => Config.freeEvent s.stream s.tick

/-- The state with its next event taken off the schedule, or the free draw counted. -/
def State.advance (s : State) : State :=
  match s.sched with
  | _ :: rest => { s with sched := rest }
  | [] => { s with tick := s.tick + 1 }

/-- `s` with a command word presented to an idle port and FG's step next: where a command is fetched. -/
def State.presentCmd (s : State) (c : CmdWord) : State :=
  { s with
    cfg := { s.cfg with level := .agent }
    fg := { s.fg with phase := .idle }
    host := { s.host with cmdValid := true, cmd := c }
    sched := .fg :: s.sched }

/-- The handler a trigger vector invokes first, in the order of 42_isr_handlers.md R207. -/
def handlerOf (ev : EvWord) : Handler := if ev &&& 0b1100#4 = 0b1100#4 then .rxc else .dre

/-- `s` with its trigger vector at `ev` and that handler's step next: where a handler is fetched. -/
def State.presentEv (s : State) (ev : EvWord) : State :=
  { s with
    cfg := { s.cfg with level := .agent }
    ser := { s.ser with rxc := ev.getLsbD 3, dre := ev.getLsbD 1 }
    isr := { s.isr with rxcie := ev.getLsbD 2, dreie := ev.getLsbD 0 }
    sched := .handler (handlerOf ev) :: s.sched }

end Sys2Proof.Machine
end

