-- ==== Sys2Proof/Machine/Step.lean ====
section
/-! DEFINITION. One step of the machine, and the placing of an instruction where the next step fetches
it. -/

namespace Sys2Proof.Machine

/-- One step: the next event of the schedule, taken on the state with the event off the schedule. -/
def step (s : State) : Host.Outcome State Fault Refusal := stepEvent s.nextEvent s.advance

/-- `s` with the opcode-table word `w` of `nbits` bits where the next step fetches: a command word on
the command port with FG next, a trigger vector on the interrupt wiring with its handler next. -/
def State.withFetchWord (s : State) (nbits w : Nat) : State :=
  match tableFormat nbits with
  | .cmd19 => s.presentCmd (BitVec.ofNat 19 w)
  | .ev4 => s.presentEv (BitVec.ofNat 4 w)

end Sys2Proof.Machine
end

