-- ==== Sys2Proof/WellFormed.lean ====
section
/-! DEFINITION. Which parameters and which instructions are legal terms: the ranges of 00_scope.md R6,
the pointer widths of 10_state.md R21, and the absence of a tag in the transmit buffer. -/

namespace Sys2Proof

/-- The ranges of 00_scope.md R6: `N_TX`, `N_RX` in 0..12, `S >= 2`. -/
def Params.wellFormed (c : Params) : Bool :=
  decide (c.nTx ≤ 12) && decide (c.nRx ≤ 12) && decide (2 ≤ c.stages)

/-- The ranges of 00_scope.md R6 for a whole device: `NUM_LINES >= 1`, and an instance's own. -/
def DeviceParams.wellFormed (d : DeviceParams) : Bool :=
  decide (1 ≤ d.numLines) && d.line.wellFormed

/-- An instruction's operands fit the instance: the value a view advances to is an `(N+1)`-bit
pointer (R221), and a push into the transmit buffer carries no tag (R145). -/
def Instr.wellFormed (c : Params) : Instr → Bool
  | .nop => true
  | .openLine _ => true
  | .closeLine => true
  | .send _ => true
  | .read => true
  | .txstat => true
  | .rxstat => true
  | .rsvd7 => true
  | .sendseq _ => true
  | .isrRxc => true
  | .isrDre => true
  | .rbInit _ _ => true
  | .rbIsFull _ _ => true
  | .rbIsEmpty _ _ => true
  | .rbOcc _ _ => true
  | .rbPush b _ t => decide (b = .rx) || decide (t = 0#4)
  | .rbPop _ => true
  | .ctlEnable => true
  | .ctlClose1 => true
  | .ctlClose2 => true
  | .ctlClose3 => true
  | .syncTxw x => decide (x.toNat < 2 ^ (c.nTx + 1))
  | .syncTxr x => decide (x.toNat < 2 ^ (c.nTx + 1))
  | .syncRxw x => decide (x.toNat < 2 ^ (c.nRx + 1))
  | .syncRxr x => decide (x.toNat < 2 ^ (c.nRx + 1))
  | .syncReq => true
  | .syncAck => true
  | .envRxArrive _ _ => true
  | .envTxReady => true

end Sys2Proof
end

