-- ==== Sys2Proof/Machine/Lines.lean ====
section
/-! DEFINITION. Several lines (10_state.md R42, 60_exceptions.md R276): `NUM_LINES` instances are
independent copies, each with its own state, ports, clocks and schedule. -/

namespace Sys2Proof.Machine

/-- The instances of one device, numbered from 0. -/
abbrev Lines := List State

/-- `NUM_LINES` instances after reset. Each draws its free events from a stream of its own, so that no
schedule of one is tied to another's (60_exceptions.md R276; assumption log entry 16). -/
def Lines.reset (d : DeviceParams) : Lines :=
  (List.range d.numLines).map (fun k => { State.resetWith d.line with stream := k })

/-- A list of instances is a device with parameters `d`: as many as `NUM_LINES` says, at least one, each
with the parameters of `d` (00_scope.md R6). -/
def Lines.wellFormed (d : DeviceParams) (ls : Lines) : Bool :=
  d.wellFormed && decide (ls.length = d.numLines) && ls.all (fun s => decide (s.cfg = d.line))

/-- Instance `k` takes a step; an index with no instance takes none. -/
def Lines.stepAt (ls : Lines) (k : Nat) : Host.Outcome Lines Fault Refusal :=
  match ls[k]? with
  | none => .next ls
  | some s =>
    match step s with
    | .next s' => .next (ls.set k s')
    | .fault f => .fault f
    | .refused r => .refused r

end Sys2Proof.Machine
end

