-- ==== Sys2Proof/Safety.lean ====
section
/-! DEFINITION. The terms claims are stated in: settled states, the order of a buffer's pointers and
views, which entries a buffer holds, the invariants of the block (10_state.md R24, 42_isr_handlers.md
R208, 20_memory.md R86), which operations belong to which domain, and fair runs (43_cdc_sync.md R230). -/

namespace Sys2Proof.Safety

open Sys2Proof.Machine

/-- Every view equals its original (20_memory.md R81). -/
abbrev Settled (s : State) : Prop :=
  s.isr.txWview = s.fg.txWptr ∧ s.fg.txRview = s.isr.txRptr ∧
  s.fg.rxWview = s.isr.rxWptr ∧ s.isr.rxRview = s.fg.rxRptr ∧
  s.isr.enReqView = s.fg.enReq ∧ s.fg.enAckView = s.isr.enAck

/-- Going forward from `rv` one meets `r`, then `wv`, then `w`, all within `C` steps
(10_state.md R24). -/
abbrev RingOrdered (n : Nat) (w r wv rv : Ptr) : Prop :=
  occ n r rv + occ n wv r + occ n w wv = occ n w rv ∧ occ n w rv ≤ 2 ^ n

/-- Every entry from the read pointer `r` up to the write pointer `w` has been written. -/
def Held {k : Nat} (m : Mem k) (n : Nat) (w r : Ptr) : Prop :=
  ∀ i, i < occ n w r → (Mem.read m (idx n (ptrAdd n r i))).isSome = true

/-- The entries of a buffer between its true pointers, oldest first. -/
def contents {k : Nat} (m : Mem k) (n : Nat) (w r : Ptr) : List (Option (BitVec k)) :=
  (List.range (occ n w r)).map (fun i => Mem.read m (idx n (ptrAdd n r i)))

/-- The unsent bytes of the transmit buffer, oldest first. -/
def txQueue (s : State) : List (Option Byte) :=
  contents (k := 8) s.fg.txMem s.cfg.nTx s.fg.txWptr s.isr.txRptr

/-- The unread bytes of the receive buffer, oldest first. -/
def rxQueue (s : State) : List (Option Byte) :=
  contents (k := 8) s.isr.rxMem s.cfg.nRx s.isr.rxWptr s.fg.rxRptr

/-- The tags of the unread bytes, oldest first. -/
def rxTags (s : State) : List (Option Tag) :=
  contents s.isr.rxTag s.cfg.nRx s.isr.rxWptr s.fg.rxRptr

/-- Every byte handed to the serial unit and then every byte still in the transmit buffer. -/
def txStream (s : State) : List (Option Byte) := s.ghost.txSink.map some ++ txQueue s

/-- An OPEN is in progress: the window in which 10_state.md R24 makes no claim. -/
abbrev Opening (s : State) : Prop := s.fg.phase = .openInit ∨ s.fg.phase = .openWait

/-- The byte of the SEND that completes on the next step, if one does (41_fg_commands.md R174). -/
def completedSend (s : State) : Option Byte :=
  if s.nextEvent = .fg ∧ s.txFullFg = false then
    match s.fg.phase with
    | .sendWait => some s.fg.cmdHold
    | .idle =>
      if s.host.cmdValid && s.fg.lineOpen then
        match decodeCmd s.host.cmd with
        | .send b => some b
        | _ => none
      else none
    | _ => none
  else none

/-- The next step is a READ that returns a byte (41_fg_commands.md R176). -/
abbrev ReadsByte (s : State) : Prop :=
  s.nextEvent = .fg ∧ s.fg.phase = .idle ∧ s.host.cmdValid = true ∧
  decodeCmd s.host.cmd = .read ∧ s.fg.lineOpen = true ∧ s.rxEmptyFg = false

/-- The next step is an `ISR.RXC` that stores its byte (42_isr_handlers.md R201). -/
abbrev StoresByte (s : State) : Prop :=
  s.nextEvent = .handler .rxc ∧ s.irqRx = true ∧ s.rxFullIsr = false

/-- The operation `i` writes the part `f` of the state: some step of it leaves another value there. -/
def Writes {α : Type} (i : Instr) (f : State → α) : Prop :=
  ∃ s t, exec i s = .next t ∧ f t ≠ f s

/-- A storage's listed indices are strictly rising and inside the storage (20_memory.md R70, R73). -/
abbrev StorageOk {k : Nat} (m : Mem k) (n : Nat) : Prop := m.wf ∧ ∀ x ∈ m, x.1 < 2 ^ n

/-- What every step keeps, at either level: legal parameters, storages in canonical form and inside
their ranges, pointers of `N + 1` bits (10_state.md R21), the error bytes' upper bits 0 (R27, R28), the
three enables equal (R33) and on exactly while the interrupt domain is not DISABLED, the
transmit-empty interrupt armed only with the transmit unit on (42_isr_handlers.md R202 (d)), and no
byte waiting with the receiver off (44_environment.md R246), and `S - 1` stages before the last in each of
the six synchroniser chains (10_state.md R26, 43_cdc_sync.md R220). -/
structure Shape (s : State) : Prop where
  params : s.cfg.wellFormed = true
  txMem : StorageOk (k := 8) s.fg.txMem s.cfg.nTx
  rxMem : StorageOk (k := 8) s.isr.rxMem s.cfg.nRx
  rxTag : StorageOk s.isr.rxTag s.cfg.nRx
  txWptr : s.fg.txWptr.toNat < 2 ^ (s.cfg.nTx + 1)
  txRptr : s.isr.txRptr.toNat < 2 ^ (s.cfg.nTx + 1)
  rxWptr : s.isr.rxWptr.toNat < 2 ^ (s.cfg.nRx + 1)
  rxRptr : s.fg.rxRptr.toNat < 2 ^ (s.cfg.nRx + 1)
  errView : s.fg.rxErrView.toNat < 16
  lastError : s.isr.lastRxError.toNat < 16
  rxen : s.isr.rxen = decide (s.isr.phase ≠ .disabled)
  txen : s.isr.txen = s.isr.rxen
  rxcie : s.isr.rxcie = s.isr.rxen
  dreie : s.isr.dreie = true → s.isr.txen = true
  rxc : s.ser.rxc = true → s.isr.rxen = true
  qTxr : s.fg.qTxr.length = s.cfg.stages - 1
  qRxw : s.fg.qRxw.length = s.cfg.stages - 1
  qAck : s.fg.qAck.length = s.cfg.stages - 1
  qTxw : s.isr.qTxw.length = s.cfg.stages - 1
  qRxr : s.isr.qRxr.length = s.cfg.stages - 1
  qReq : s.isr.qReq.length = s.cfg.stages - 1

/-- The four-phase handshake of OPEN and CLOSE: what `en_req`, `en_ack` and their views can be in each
state of the two sequencers (41_fg_commands.md R172, R173, 42_isr_handlers.md R209). -/
def Handshake (s : State) : Prop :=
  match s.fg.phase, s.fg.lineOpen with
  | .idle, false => s.fg.enReq = false ∧ s.isr.enReqView = false ∧ s.isr.phase = .disabled ∧
      s.isr.enAck = false ∧ s.fg.enAckView = false
  | .openInit, false => s.fg.enReq = false ∧ s.isr.enReqView = false ∧ s.isr.phase = .disabled ∧
      s.isr.enAck = false ∧ s.fg.enAckView = false
  | .openWait, false => s.fg.enReq = true ∧
      ((s.isr.phase = .disabled ∧ s.isr.enAck = false ∧ s.fg.enAckView = false) ∨
       (s.isr.phase = .enabled ∧ s.isr.enReqView = true ∧ s.isr.enAck = true))
  | .closeWait, true => s.fg.enReq = false ∧
      ((s.isr.phase = .enabled ∧ s.isr.enAck = true ∧ s.fg.enAckView = true) ∨
       (s.isr.phase = .waitDre ∧ s.isr.enReqView = false ∧ s.isr.enAck = true ∧
          s.fg.enAckView = true) ∨
       (s.isr.phase = .settle ∧ s.isr.enReqView = false ∧ s.isr.enAck = true ∧
          s.fg.enAckView = true) ∨
       (s.isr.phase = .disabled ∧ s.isr.enReqView = false ∧ s.isr.enAck = false))
  | .idle, true => s.fg.enReq = true ∧ s.isr.enReqView = true ∧ s.isr.phase = .enabled ∧
      s.isr.enAck = true ∧ s.fg.enAckView = true
  | .sendWait, true => s.fg.enReq = true ∧ s.isr.enReqView = true ∧ s.isr.phase = .enabled ∧
      s.isr.enAck = true ∧ s.fg.enAckView = true
  | .closeDrain, true => s.fg.enReq = true ∧ s.isr.enReqView = true ∧ s.isr.phase = .enabled ∧
      s.isr.enAck = true ∧ s.fg.enAckView = true
  | .openInit, true => False
  | .openWait, true => False
  | .sendWait, false => False
  | .closeDrain, false => False
  | .closeWait, false => False

/-- The pointers, views and entries of both buffers, by where an OPEN stands: before `CTL.ENABLE` only
the foreground's pointers have been zeroed; after it the foreground's views are still old
(43_cdc_sync.md R228); at every other time the order of 10_state.md R24 holds and every entry
between the pointers has been written (20_memory.md R86). -/
def Buffers (s : State) : Prop :=
  if s.fg.phase = .openInit ∨ (s.fg.phase = .openWait ∧ s.isr.phase = .disabled) then
    s.fg.txWptr = 0 ∧ s.fg.rxRptr = 0
  else if s.fg.phase = .openWait then
    (s.fg.txWptr = 0 ∧ s.isr.txRptr = 0 ∧ s.isr.txWview = 0) ∧
    (s.fg.rxRptr = 0 ∧ s.isr.rxRview = 0 ∧ occ s.cfg.nRx s.isr.rxWptr 0 ≤ 2 ^ s.cfg.nRx) ∧
    Held (k := 8) s.isr.rxMem s.cfg.nRx s.isr.rxWptr 0 ∧
    Held s.isr.rxTag s.cfg.nRx s.isr.rxWptr 0
  else
    (RingOrdered s.cfg.nTx s.fg.txWptr s.isr.txRptr s.isr.txWview s.fg.txRview ∧
     RingOrdered s.cfg.nRx s.isr.rxWptr s.fg.rxRptr s.fg.rxWview s.isr.rxRview) ∧
    Held (k := 8) s.fg.txMem s.cfg.nTx s.fg.txWptr s.isr.txRptr ∧
    Held (k := 8) s.isr.rxMem s.cfg.nRx s.isr.rxWptr s.fg.rxRptr ∧
    Held s.isr.rxTag s.cfg.nRx s.isr.rxWptr s.fg.rxRptr

/-- The invariant of the agent level. Beside the above: the views are `N + 1` bits wide; CLOSE waits
with the transmit buffer drained (41_fg_commands.md R173 (a)); `dre = 1` while DISABLED and through
the settling delay (44_environment.md R246); an unsent byte the interrupt domain knows of has the
interrupt armed (42_isr_handlers.md R208). -/
structure Inv (s : State) : Prop where
  level : s.cfg.level = .agent
  shape : Shape s
  txWview : s.isr.txWview.toNat < 2 ^ (s.cfg.nTx + 1)
  txRview : s.fg.txRview.toNat < 2 ^ (s.cfg.nTx + 1)
  rxWview : s.fg.rxWview.toNat < 2 ^ (s.cfg.nRx + 1)
  rxRview : s.isr.rxRview.toNat < 2 ^ (s.cfg.nRx + 1)
  handshake : Handshake s
  buffers : Buffers s
  drained : s.fg.phase = .closeWait → s.fg.txWptr = s.fg.txRview
  dre : s.isr.phase = .disabled ∨ s.isr.phase = .settle → s.ser.dre = true
  armed : s.isr.phase ≠ .disabled → s.isr.txRptr ≠ s.isr.txWview → s.isr.dreie = true

/-- The operations of the foreground domain: the commands of `clk_fg` (41_fg_commands.md). -/
abbrev isFgCommand (i : Instr) : Prop :=
  match i with
  | .nop | .openLine _ | .closeLine | .send _ | .read | .txstat | .rxstat | .rsvd7 => True
  | _ => False

/-- The operations of the interrupt domain: the two handlers and CTL (42_isr_handlers.md). -/
abbrev isIsrOperation (i : Instr) : Prop :=
  match i with
  | .isrRxc | .isrDre | .ctlEnable | .ctlClose1 | .ctlClose2 | .ctlClose3 => True
  | _ => False

/-- The operations that answer in format RES16 (30_encoding.md R103). -/
abbrev answersRes16 (i : Instr) : Prop :=
  match i with
  | .nop | .openLine _ | .closeLine | .send _ | .read | .rsvd7 => True
  | _ => False

/-- `n` edges of `clk_isr`, one after another, with no other event between them (43_cdc_sync.md R220); a
draw matters only to an edge of both clocks. -/
def isrEdges (m : Masks) : Nat → State → Host.Outcome State Fault Refusal
  | 0, s => .next s
  | n + 1, s => andThen (stepEvent (.clock .isr m) s) (isrEdges m n)

/-- The transmit path is drained and has settled: nothing unsent, and no write pointer on its way to the
interrupt domain. It is so from `CTL.CLOSE1` on (42_isr_handlers.md R204). -/
abbrev TxDrained (s : State) : Prop :=
  s.isr.txRptr = s.isr.txWview ∧ s.fg.txWptr = s.isr.txWview ∧
  ∀ q ∈ s.isr.qTxw, q = gray s.isr.txWview

/-- `n` edges of a synchroniser chain whose source stays at `g`, from the stages `q` and the last
stage `v` (43_cdc_sync.md R220). -/
def chainRun {α : Type} (g : α) : Nat → List α × α → List α × α
  | 0, c => c
  | n + 1, c => chainRun g n (chainShift g c.1)

/-- CTL's operation, taken where the state `old` before the edge enables it (42_isr_handlers.md R207,
R209). -/
def ctlIfEnabled (old s : State) : Host.Outcome State Fault Refusal :=
  match old.isr.phase with
  | .disabled => if old.isr.enReqView then exec .ctlEnable s else .next s
  | .enabled => if old.isr.enReqView then .next s else exec .ctlClose1 s
  | .waitDre => if old.ser.dre then exec .ctlClose2 s else .next s
  | .settle => exec .ctlClose3 s

/-- What an edge at the register level leaves, less what the agent level does not have as state: the
stages before a chain's last (10_state.md R26). -/
def forgetChains (s : State) : State :=
  { s with
    fg := { s.fg with qTxr := [], qRxw := [], qAck := [] }
    isr := { s.isr with qTxw := [], qRxr := [], qReq := [] } }

/-- The instance on which a register-level edge or an agent-level step is taken, compared modulo the
chains. -/
def sameButChains (a b : Host.Outcome State Fault Refusal) : Prop :=
  match a, b with
  | .next s, .next t => forgetChains s = forgetChains t
  | .fault f, .fault g => f = g
  | _, _ => False

/-- FG has an enabled step: a command to accept, or the condition its phase waits for
(41_fg_commands.md R180, R181). -/
abbrev FgEnabled (s : State) : Prop :=
  match s.fg.phase with
  | .idle => s.host.cmdValid = true
  | .sendWait => s.txFullFg = false
  | .openInit => True
  | .openWait => s.fg.enAckView = true
  | .closeDrain => s.txEmptyFg = true
  | .closeWait => s.fg.enAckView = false

/-- CTL has an enabled step (42_isr_handlers.md R209). -/
abbrev CtlEnabled (s : State) : Prop :=
  match s.isr.phase with
  | .disabled => s.isr.enReqView = true
  | .enabled => s.isr.enReqView = false
  | .waitDre => s.ser.dre = true
  | .settle => True

/-- A run of the machine: states, the events taken between them. -/
structure Run where
  states : Nat → State
  events : Nat → Event
  steps : ∀ n, stepEvent (events n) (states n) = .next (states (n + 1))

/-- Weak fairness of a step: if its guard stays true it is eventually taken. -/
def Run.WeaklyFair (r : Run) (guard : State → Prop) (takes : Event → Prop) : Prop :=
  ∀ n, (∀ m, n ≤ m → guard (r.states m)) → ∃ m, n ≤ m ∧ takes (r.events m)

/-- A crossing catches up: if its original holds a value from some moment on and the crossing stays
enabled, the view eventually equals it (43_cdc_sync.md R230 (a)). -/
def Run.CatchesUp {α : Type} (r : Run) (enabled : State → Prop) (original view : State → α) : Prop :=
  ∀ n v, (∀ m, n ≤ m → enabled (r.states m) ∧ original (r.states m) = v) →
    ∃ m, n ≤ m ∧ view (r.states m) = v

/-- The fairness of 43_cdc_sync.md R230 (a) to (c): the six crossings, FG, the handlers, CTL, and
`ENV.TX_READY`; a byte's arrival and the host are under none. -/
structure Run.Fair (r : Run) : Prop where
  txw : r.CatchesUp (fun s => s.isrCrossingsOn = true) (fun s => s.fg.txWptr) (fun s => s.isr.txWview)
  txr : r.CatchesUp (fun s => s.fgCrossingsOn = true) (fun s => s.isr.txRptr) (fun s => s.fg.txRview)
  rxw : r.CatchesUp (fun s => s.fgCrossingsOn = true) (fun s => s.isr.rxWptr) (fun s => s.fg.rxWview)
  rxr : r.CatchesUp (fun s => s.isrCrossingsOn = true) (fun s => s.fg.rxRptr) (fun s => s.isr.rxRview)
  req : r.CatchesUp (fun _ => True) (fun s => s.fg.enReq) (fun s => s.isr.enReqView)
  ack : r.CatchesUp (fun _ => True) (fun s => s.isr.enAck) (fun s => s.fg.enAckView)
  fg : r.WeaklyFair FgEnabled (fun e => e = .fg)
  rxc : r.WeaklyFair (fun s => s.irqRx = true) (fun e => e = .handler .rxc)
  dre : r.WeaklyFair (fun s => s.irqTx = true) (fun e => e = .handler .dre)
  ctl : r.WeaklyFair CtlEnabled (fun e => e = .ctl)
  txReady : r.WeaklyFair (fun s => s.ser.dre = false ∧ s.isr.txen = true) (fun e => e = .txReady)

end Sys2Proof.Safety
end

