-- ==== Sys2Proof/Certificates/Slice0/Obligations.lean ====
section
/-! DEFINITION. The statements for the provers, each from the numbered rules of spec/ that its docstring
names. -/

open Sys2Proof Sys2Proof.Machine Sys2Proof.Safety

/-! ## Encoding -/

/-- Words written out from 30_encoding.md R110 and R113 decode to what they stand for; bits above the
format's width are refused. -/
def Obligations.KnownWordsDecode : Prop :=
  decodeCmd 0x00000#19 = .nop ∧ decodeCmd 0x0FFFF#19 = .nop ∧
  decodeCmd 0x10067#19 = .openLine 0x0067#16 ∧ decodeCmd 0x20000#19 = .closeLine ∧
  decodeCmd 0x300AA#19 = .send 0xAA#8 ∧ decodeCmd 0x301FF#19 = .send 0xFF#8 ∧
  decodeCmd 0x40000#19 = .read ∧ decodeCmd 0x50000#19 = .txstat ∧
  decodeCmd 0x60000#19 = .rxstat ∧ decodeCmd 0x7ABCD#19 = .rsvd7 ∧
  decodeEv 0b1110#4 = some .isrRxc ∧ decodeEv 0b0111#4 = some .isrDre ∧ decodeEv 0b1001#4 = none ∧
  decode .cmd19 0x80000 = .error .tooWide ∧ decode .ev4 0b0101 = .error .noTrigger

/-- Decode and encode agree on every instruction that has an encoding, and exactly the rows of format
CMD19 and EV4 have one (30_encoding.md R110, R113, R114). -/
def Obligations.DecodeOfEncode : Prop :=
  (∀ i f w, encode i = some (f, w) → decode f w = .ok i) ∧
  ∀ i, (encode i).isSome = true ↔ isFgCommand i ∨ i = .isrRxc ∨ i = .isrDre

/-- Which command a word is depends on `cmd[18:16]` alone, and two words decode alike exactly if they
agree there and in the argument bits that command uses (30_encoding.md R102, R108, R109). -/
def Obligations.DecodedFromOperationField : Prop :=
  (∀ c : CmdWord, ∃ e, encodeCmd (decodeCmd c) = some e ∧
    e &&& 0x70000#19 = c &&& 0x70000#19 ∧ decodeCmd e = decodeCmd c) ∧
  ∀ c d : CmdWord, decodeCmd c = decodeCmd d ↔
    c.extractLsb' 16 3 = d.extractLsb' 16 3 ∧
    (c.extractLsb' 16 3 = 1#3 → c.extractLsb' 0 16 = d.extractLsb' 0 16) ∧
    (c.extractLsb' 16 3 = 3#3 → c.extractLsb' 0 8 = d.extractLsb' 0 8)

/-- The trigger vector and what it invokes (30_encoding.md R113). That a handler's turn without its trigger
leaves the state as it is, the `else` of both clauses, is the model's choice (assumption log entry 4). -/
def Obligations.TriggerVectorInvokesHandlers : Prop :=
  ∀ s : State,
    (s.ev.getLsbD 3 = s.ser.rxc ∧ s.ev.getLsbD 2 = s.isr.rxcie ∧
      s.ev.getLsbD 1 = s.ser.dre ∧ s.ev.getLsbD 0 = s.isr.dreie) ∧
    handlerStep .rxc s = (if s.ev &&& 0b1100#4 = 0b1100#4 then exec .isrRxc s else .next s) ∧
    handlerStep .dre s = (if s.ev &&& 0b0011#4 = 0b0011#4 then exec .isrDre s else .next s)

/-! ## The step -/

/-- A step of FG (41_fg_commands.md R170, R180): at an idle port with a word presented it runs exactly
the decoded command, the word taken; with a command in progress it runs that command on; with neither
it only ends the response strobe (10_state.md R36). The model's own readings in it: the agent to step is
the schedule's first event (assumption log entry 2, DESIGN CHOICE), `cmd_valid` falls as the word is
accepted (entry 20, DEDUCED), and an FG event with nothing to do stands for the edge that ends
`rsp_valid` (entry 10, DEDUCED). -/
def Obligations.StepRunsForegroundCommand : Prop :=
  ∀ (s : State) rest, s.sched = .fg :: rest → s.cfg.level = .agent →
    (s.fg.phase = .idle → s.host.cmdValid = true →
      step s = exec (decodeCmd s.host.cmd)
        { s with sched := rest, host := { s.host with cmdValid := false } }) ∧
    (s.fg.phase = .idle → s.host.cmdValid = false →
      step s = .next { s with sched := rest, fg := { s.fg with rspValid := false } }) ∧
    (s.fg.phase = .sendWait → step s = exec (.send s.fg.cmdHold) { s with sched := rest }) ∧
    (s.fg.phase = .openInit ∨ s.fg.phase = .openWait →
      step s = exec (.openLine s.fg.baudHold) { s with sched := rest }) ∧
    (s.fg.phase = .closeDrain ∨ s.fg.phase = .closeWait →
      step s = exec .closeLine { s with sched := rest })

/-- Steps of the other agents (00_scope.md R12): the schedule names the agent, its operation runs on the
state with the event taken off; with no event scheduled the step is a free one, from the instance's own
stream (the form of the schedule is the model's choice, assumption log entry 2). -/
def Obligations.StepRunsScheduledAgent : Prop :=
  (∀ (s : State) e rest, s.sched = e :: rest → step s = stepEvent e { s with sched := rest }) ∧
  (∀ s : State, s.sched = [] →
    step s = stepEvent (Config.freeEvent s.stream s.tick) { s with tick := s.tick + 1 }) ∧
  ∀ s : State,
    (∀ d e, stepEvent (.rxArrive d e) s = exec (.envRxArrive d e) s) ∧
    stepEvent .txReady s = exec .envTxReady s ∧
    (∀ w, stepEvent (.host w) s = .next (hostPresent w s)) ∧
    (∀ bs, stepEvent (.hostSeq bs) s = exec (.sendseq bs) s) ∧
    (s.cfg.level = .agent →
      (∀ h, stepEvent (.handler h) s = handlerStep h s) ∧
      stepEvent .ctl s = exec (match s.isr.phase with
        | .disabled => .ctlEnable
        | .enabled => .ctlClose1
        | .waitDre => .ctlClose2
        | .settle => .ctlClose3) s ∧
      (∀ x, stepEvent (.sync .txw x) s = exec (.syncTxw x) s ∧
        stepEvent (.sync .txr x) s = exec (.syncTxr x) s ∧
        stepEvent (.sync .rxw x) s = exec (.syncRxw x) s ∧
        stepEvent (.sync .rxr x) s = exec (.syncRxr x) s ∧
        stepEvent (.sync .req x) s = exec .syncReq s ∧
        stepEvent (.sync .ack x) s = exec .syncAck s)) ∧
    (s.cfg.level = .register → ∀ k m, stepEvent (.clock k m) s = clockStep k m s)

/-- An opcode-table word placed where the next step fetches is what the next step runs, on the state
written out here: a trigger vector (30_encoding.md R113) stands in the signals and enables it is made of,
a command word (R109) was on the port and has been accepted. What placing a word means, and which
handler's turn comes first where the vector invokes both, are the model's choice (assumption log entries
13 and 18); that `cmd_valid` has fallen in the state a command runs on, with the word still on `cmd`, is
its reading of acceptance (entry 20). -/
def Obligations.PlacedWordRuns : Prop :=
  ∀ (s : State) nbits w i, decodeTableWord nbits w = some i →
    (nbits ≤ 8 → step (s.withFetchWord nbits w) = exec i { s with
      cfg := { s.cfg with level := .agent }
      ser := { s.ser with rxc := w.testBit 3, dre := w.testBit 1 }
      isr := { s.isr with rxcie := w.testBit 2, dreie := w.testBit 0 } }) ∧
    (8 < nbits → step (s.withFetchWord nbits w) = exec i { s with
      cfg := { s.cfg with level := .agent }
      fg := { s.fg with phase := .idle }
      host := { s.host with cmdValid := false, cmd := BitVec.ofNat 19 w } })

/-! ## The foreground commands -/

/-- NOP (41_fg_commands.md R171). -/
def Obligations.NopResponds : Prop :=
  encodeCmd .nop = some 0x00000#19 ∧
  (∀ c : CmdWord, c.extractLsb' 16 3 = 0#3 → decodeCmd c = .nop) ∧
  ∀ s : State, s.fg.phase = .idle →
    exec .nop s = .next { s with fg := { s.fg with rsp := 0x0000#16, rspValid := true } }

/-- RSVD7 (41_fg_commands.md R179, 60_exceptions.md R263). -/
def Obligations.IllegalOpRefused : Prop :=
  encodeCmd .rsvd7 = some 0x70000#19 ∧
  (∀ c : CmdWord, c.extractLsb' 16 3 = 7#3 → decodeCmd c = .rsvd7) ∧
  ∀ s : State, s.fg.phase = .idle →
    exec .rsvd7 s = .next { s with fg := { s.fg with rsp := 0x8000#16, rspValid := true } }

/-- A second OPEN (60_exceptions.md R262). -/
def Obligations.OpenOnOpenLineRefused : Prop :=
  ∀ (s : State) baud, s.fg.phase = .idle → s.fg.lineOpen = true →
    exec (.openLine baud) s =
      .next { s with fg := { s.fg with rsp := 0x4000#16, rspValid := true } }

/-- CLOSE, SEND and READ on a Closed line (60_exceptions.md R261). -/
def Obligations.ClosedLineRefuses : Prop :=
  ∀ s : State, s.fg.phase = .idle → s.fg.lineOpen = false →
    exec .closeLine s = .next { s with fg := { s.fg with rsp := 0x2000#16, rspValid := true } } ∧
    (∀ b, exec (.send b) s =
      .next { s with fg := { s.fg with rsp := 0x2000#16, rspValid := true } }) ∧
    exec .read s = .next { s with fg := { s.fg with rsp := 0x2100#16, rspValid := true } }

/-- OPEN on a Closed line, its three foreground steps and its hold (41_fg_commands.md R172). That
`rsp_valid` is 0 after each step that does not complete is the model's reading of 10_state.md R36 at a level
that counts no cycles (assumption log entry 10, DEDUCED), and so is where `portcfg` falls. -/
def Obligations.OpenSteps : Prop :=
  ∀ (s : State) baud,
    (s.fg.phase = .idle → s.fg.lineOpen = false → exec (.openLine baud) s = .next { s with
      fg := { s.fg with
        txWptr := 0, rxRptr := 0, baudHold := baud, portcfg := true, phase := .openInit,
        rspValid := false }
      ghost := { s.ghost with portcfgCount := s.ghost.portcfgCount + 1 } }) ∧
    (s.fg.phase = .openInit → exec (.openLine baud) s = .next { s with fg := { s.fg with
      portcfg := false, enReq := true, phase := .openWait, rspValid := false } }) ∧
    (s.fg.phase = .openWait → s.fg.enAckView = false →
      exec (.openLine baud) s = .next { s with fg := { s.fg with rspValid := false } }) ∧
    (s.fg.phase = .openWait → s.fg.enAckView = true →
      exec (.openLine baud) s = .next { s with fg := { s.fg with
        txRview := 0, qTxr := List.replicate (s.cfg.stages - 1) 0
        rxWview := 0, qRxw := List.replicate (s.cfg.stages - 1) 0
        rxErrView := 0, lineOpen := true, rsp := 0x0000#16, rspValid := true, phase := .idle } })

/-- CLOSE on an Open line, its three foreground steps and its two holds (41_fg_commands.md R173). That
`rsp_valid` is 0 after each step that does not complete is the model's reading of 10_state.md R36 at a level
that counts no cycles (assumption log entry 10, DEDUCED). -/
def Obligations.CloseSteps : Prop :=
  ∀ s : State,
    (s.fg.phase = .idle → s.fg.lineOpen = true → exec .closeLine s =
      .next { s with fg := { s.fg with phase := .closeDrain, rspValid := false } }) ∧
    (s.fg.phase = .closeDrain → s.fg.txWptr = s.fg.txRview → exec .closeLine s =
      .next { s with fg := { s.fg with enReq := false, phase := .closeWait, rspValid := false } }) ∧
    (s.fg.phase = .closeDrain → s.fg.txWptr ≠ s.fg.txRview → exec .closeLine s =
      .next { s with fg := { s.fg with rspValid := false } }) ∧
    (s.fg.phase = .closeWait → s.fg.enAckView = true → exec .closeLine s =
      .next { s with fg := { s.fg with rspValid := false } }) ∧
    (s.fg.phase = .closeWait → s.fg.enAckView = false → exec .closeLine s =
      .next { s with fg := { s.fg with
        lineOpen := false, rsp := 0x0000#16, rspValid := true, phase := .idle } })

/-- SEND on an Open line (41_fg_commands.md R174): it stores its byte at `idx(tx_wptr)` and nowhere
else, at once or when the hold lifts; while the buffer is full it waits with its byte. That `rsp_valid` is 0
when SEND begins to wait and while it waits is the model's reading of 10_state.md R36 at a level that
counts no cycles (assumption log entry 10, DEDUCED). -/
def Obligations.SendSteps : Prop :=
  ∀ (s : State) b,
    (s.fg.phase = .idle → s.fg.lineOpen = true →
      occ s.cfg.nTx s.fg.txWptr s.fg.txRview ≠ 2 ^ s.cfg.nTx →
      ∃ m, exec (.send b) s = .next { s with fg := { s.fg with
          txMem := m, txWptr := ptrInc s.cfg.nTx s.fg.txWptr, rsp := 0x0000#16, rspValid := true } } ∧
        ∀ a, Mem.read (w := 8) m a =
          if a = idx s.cfg.nTx s.fg.txWptr then some b else Mem.read (w := 8) s.fg.txMem a) ∧
    (s.fg.phase = .idle → s.fg.lineOpen = true →
      occ s.cfg.nTx s.fg.txWptr s.fg.txRview = 2 ^ s.cfg.nTx →
      exec (.send b) s = .next { s with fg := { s.fg with
        cmdHold := b, phase := .sendWait, rspValid := false } }) ∧
    (s.fg.phase = .sendWait → occ s.cfg.nTx s.fg.txWptr s.fg.txRview = 2 ^ s.cfg.nTx →
      exec (.send b) s = .next { s with fg := { s.fg with rspValid := false } }) ∧
    (s.fg.phase = .sendWait → occ s.cfg.nTx s.fg.txWptr s.fg.txRview ≠ 2 ^ s.cfg.nTx →
      ∃ m, exec (.send b) s = .next { s with fg := { s.fg with
          txMem := m, txWptr := ptrInc s.cfg.nTx s.fg.txWptr, rsp := 0x0000#16, rspValid := true,
          phase := .idle } } ∧
        ∀ a, Mem.read (w := 8) m a =
          if a = idx s.cfg.nTx s.fg.txWptr then some s.fg.cmdHold
          else Mem.read (w := 8) s.fg.txMem a)

/-- READ on an Open line (41_fg_commands.md R176): the oldest byte with its flags in either
`ERR_TAG_MODE`, or no data. -/
def Obligations.ReadSteps : Prop :=
  ∀ s : State, s.fg.phase = .idle → s.fg.lineOpen = true →
    (∀ b t, s.fg.rxRptr ≠ s.fg.rxWview →
      Mem.read (w := 8) s.isr.rxMem (idx s.cfg.nRx s.fg.rxRptr) = some b →
      Mem.read s.isr.rxTag (idx s.cfg.nRx s.fg.rxRptr) = some t →
      exec .read s = .next { s with fg := { s.fg with
        rxRptr := ptrInc s.cfg.nRx s.fg.rxRptr
        rsp := ((if s.cfg.errTagMode = .perByte then t
          else s.fg.rxErrView.extractLsb' 0 4).setWidth 16 <<< 9) ||| b.setWidth 16
        rspValid := true } }) ∧
    (s.fg.rxRptr = s.fg.rxWview → exec .read s = .next { s with fg := { s.fg with
      rsp := 0x0100#16 ||| ((s.fg.rxErrView.extractLsb' 0 4).setWidth 16 <<< 9)
      rspValid := true } })

/-- TXSTAT and RXSTAT (41_fg_commands.md R177, R178): the response word from the flags, the line state
and the occupancy, no other effect, and the side on which a stale view errs. -/
def Obligations.StatusCommandsAnswer : Prop :=
  (encodeCmd .txstat = some 0x50000#19 ∧ encodeCmd .rxstat = some 0x60000#19) ∧
  (∀ s : State, s.fg.phase = .idle →
    exec .txstat s = .next { s with fg := { s.fg with
      rsp := ((BitVec.ofBool (decide (occ s.cfg.nTx s.fg.txWptr s.fg.txRview = 2 ^ s.cfg.nTx))).setWidth 16
            <<< 15) |||
          ((BitVec.ofBool (decide (s.fg.txWptr = s.fg.txRview))).setWidth 16 <<< 14) |||
          ((1#16 - (BitVec.ofBool s.fg.lineOpen).setWidth 16) <<< 13) |||
          BitVec.ofNat 16 (occ s.cfg.nTx s.fg.txWptr s.fg.txRview)
      rspValid := true } } ∧
    exec .rxstat s = .next { s with fg := { s.fg with
      rsp := ((BitVec.ofBool (decide (occ s.cfg.nRx s.fg.rxWview s.fg.rxRptr = 2 ^ s.cfg.nRx))).setWidth 16
            <<< 15) |||
          ((BitVec.ofBool (decide (s.fg.rxRptr = s.fg.rxWview))).setWidth 16 <<< 14) |||
          ((1#16 - (BitVec.ofBool s.fg.lineOpen).setWidth 16) <<< 13) |||
          BitVec.ofNat 16 (occ s.cfg.nRx s.fg.rxWview s.fg.rxRptr)
      rspValid := true } }) ∧
  ∀ s : State, Inv s → s.fg.phase = .idle →
    occ s.cfg.nTx s.fg.txWptr s.isr.txRptr ≤ occ s.cfg.nTx s.fg.txWptr s.fg.txRview ∧
    occ s.cfg.nRx s.fg.rxWview s.fg.rxRptr ≤ occ s.cfg.nRx s.isr.rxWptr s.fg.rxRptr

/-- SENDSEQ (41_fg_commands.md R175): the line's SENDs, in order, after whatever the host still has to
present; the host presents one at a time, when the port is idle, and with no list any word it likes
(44_environment.md R249). The list is the model's (assumption log entry 8). -/
def Obligations.SendseqExpands : Prop :=
  (∀ (s : State) bs, exec (.sendseq bs) s = .next { s with host := { s.host with
    pending := s.host.pending ++ bs.map (fun b => 0x30000#19 ||| b.setWidth 19) } }) ∧
  (∀ b : Byte, decodeCmd (0x30000#19 ||| b.setWidth 19) = .send b) ∧
  (∀ (s : State) w c rest, s.fg.phase = .idle → s.host.cmdValid = false → s.host.pending = c :: rest →
    hostPresent w s = { s with host := { cmdValid := true, cmd := c, pending := rest } }) ∧
  (∀ (s : State) w, s.fg.phase = .idle → s.host.cmdValid = false → s.host.pending = [] →
    hostPresent w s = { s with host := { cmdValid := true, cmd := w, pending := [] } }) ∧
  ∀ (s : State) w, s.fg.phase ≠ .idle ∨ s.host.cmdValid = true → hostPresent w s = s

/-- No response in format RES16 has two of `ILLEGAL`, `ALREADY_OPEN`, `NOT_OPEN`, and a refused READ
reports no receive flag (60_exceptions.md R267; vector V76). -/
def Obligations.AtMostOneLineError : Prop :=
  ∀ i (s : State) t, answersRes16 i → s.fg.phase = .idle → exec i s = .next t → t.fg.rspValid = true →
    ¬(t.fg.rsp.getLsbD 15 = true ∧ t.fg.rsp.getLsbD 14 = true) ∧
    ¬(t.fg.rsp.getLsbD 15 = true ∧ t.fg.rsp.getLsbD 13 = true) ∧
    ¬(t.fg.rsp.getLsbD 14 = true ∧ t.fg.rsp.getLsbD 13 = true) ∧
    (t.fg.rsp.getLsbD 13 = true → t.fg.rsp.extractLsb' 9 4 = 0#4)

/-- Every transition of `fg_phase`, and where the line state changes (41_fg_commands.md R180). -/
def Obligations.FgPhaseTransitions : Prop :=
  ∀ (s : State) t, fgStep s = .next t →
    t.fg.phase = (match s.fg.phase with
      | .idle =>
        if s.host.cmdValid then
          match decodeCmd s.host.cmd with
          | .openLine _ => if s.fg.lineOpen then .idle else .openInit
          | .closeLine => if s.fg.lineOpen then .closeDrain else .idle
          | .send _ => if s.fg.lineOpen && s.txFullFg then .sendWait else .idle
          | _ => .idle
        else .idle
      | .openInit => .openWait
      | .openWait => if s.fg.enAckView then .idle else .openWait
      | .closeDrain => if s.txEmptyFg then .closeWait else .closeDrain
      | .closeWait => if s.fg.enAckView then .closeWait else .idle
      | .sendWait => if s.txFullFg then .sendWait else .idle) ∧
    (t.fg.lineOpen ≠ s.fg.lineOpen →
      (s.fg.phase = .openWait ∧ t.fg.phase = .idle ∧ t.fg.lineOpen = true) ∨
      (s.fg.phase = .closeWait ∧ t.fg.phase = .idle ∧ t.fg.lineOpen = false))

/-! ## The interrupt domain -/

/-- ISR.RXC (42_isr_handlers.md R201, 44_environment.md R243, 60_exceptions.md R264): it stores byte
and tag at `idx(rx_wptr)` and nowhere else, or drops the byte and marks the loss; it always takes it. That
`rx_data` and `rx_err` keep their values as `rxc` falls is the model's (assumption log entry 17, DEDUCED):
44_environment.md R241 leaves them any value then. -/
def Obligations.RxcSteps : Prop :=
  ∀ s : State, s.ser.rxc = true → s.isr.rxcie = true →
    s.rxRd = true ∧
    (occ s.cfg.nRx s.isr.rxWptr s.isr.rxRview ≠ 2 ^ s.cfg.nRx →
      ∃ m g, exec .isrRxc s = .next { s with
          isr := { s.isr with
            rxMem := m, rxTag := g, rxWptr := ptrInc s.cfg.nRx s.isr.rxWptr, rxDropPending := false
            lastRxError := (BitVec.ofBool s.isr.rxDropPending ++ s.ser.rxErr).setWidth 8 }
          ser := { s.ser with rxc := false } } ∧
        (∀ a, Mem.read (w := 8) m a = if a = idx s.cfg.nRx s.isr.rxWptr then some s.ser.rxData
          else Mem.read (w := 8) s.isr.rxMem a) ∧
        ∀ a, Mem.read g a = if a = idx s.cfg.nRx s.isr.rxWptr
          then some (BitVec.ofBool s.isr.rxDropPending ++ s.ser.rxErr) else Mem.read s.isr.rxTag a) ∧
    (occ s.cfg.nRx s.isr.rxWptr s.isr.rxRview = 2 ^ s.cfg.nRx →
      exec .isrRxc s = .next { s with
        isr := { s.isr with
          rxDropPending := true, lastRxError := (1#1 ++ s.ser.rxErr).setWidth 8 }
        ser := { s.ser with rxc := false } })

/-- ISR.DRE (42_isr_handlers.md R202, 44_environment.md R245): it hands the oldest byte it knows of to
the serial unit, or disarms itself. -/
def Obligations.DreSteps : Prop :=
  ∀ s : State, s.ser.dre = true → s.isr.dreie = true →
    (∀ b, s.isr.txRptr ≠ s.isr.txWview →
      Mem.read (w := 8) s.fg.txMem (idx s.cfg.nTx s.isr.txRptr) = some b →
      s.txWr = true ∧ s.txData = some b ∧
      exec .isrDre s = .next { s with
        isr := { s.isr with txRptr := ptrInc s.cfg.nTx s.isr.txRptr }
        ser := { s.ser with dre := false }
        ghost := { s.ghost with txSink := s.ghost.txSink ++ [b] } }) ∧
    (s.isr.txRptr = s.isr.txWview →
      s.txWr = false ∧ exec .isrDre s = .next { s with isr := { s.isr with dreie := false } })

/-- The two handlers may be taken in either order with the same result (60_exceptions.md R270). -/
def Obligations.HandlersCommute : Prop :=
  ∀ s : State, andThen (exec .isrRxc s) (exec .isrDre) = andThen (exec .isrDre s) (exec .isrRxc)

/-- CTL.ENABLE (42_isr_handlers.md R203). -/
def Obligations.CtlEnables : Prop :=
  ∀ s : State, s.isr.phase = .disabled → s.isr.enReqView = true →
    exec .ctlEnable s = .next { s with isr := { s.isr with
      txRptr := 0, rxWptr := 0
      txWview := 0, qTxw := List.replicate (s.cfg.stages - 1) 0
      rxRview := 0, qRxr := List.replicate (s.cfg.stages - 1) 0
      lastRxError := 0, rxDropPending := false, baud := s.fg.baudHold
      rxen := true, txen := true, rxcie := true, dreie := false
      enAck := true, phase := .enabled } }

/-- CTL.CLOSE1, and that the transmit buffer is truly empty by then (42_isr_handlers.md R204). -/
def Obligations.Close1NotesRequest : Prop :=
  ∀ s : State, s.isr.phase = .enabled → s.isr.enReqView = false →
    exec .ctlClose1 s = .next { s with isr := { s.isr with phase := .waitDre } } ∧
    (Inv s → s.isr.txWview = s.fg.txWptr ∧ s.isr.txWview = s.isr.txRptr)

/-- CTL.CLOSE2 and, at the agent level, CTL.CLOSE3 with the loss of a waiting byte
(42_isr_handlers.md R205, R206, 44_environment.md R246). That `rx_data` and `rx_err` keep their values as
`rxc` falls is the model's (assumption log entry 17, DEDUCED). -/
def Obligations.Close2StartsClose3Disables : Prop :=
  ∀ s : State,
    (s.isr.phase = .waitDre → s.ser.dre = true → exec .ctlClose2 s =
      .next { s with isr := { s.isr with settleCnt := s.cfg.tSettle, phase := .settle } }) ∧
    (s.isr.phase = .settle → s.cfg.level = .agent → exec .ctlClose3 s = .next { s with
      isr := { s.isr with
        rxen := false, txen := false, rxcie := false, dreie := false
        enAck := false, phase := .disabled }
      ser := { s.ser with rxc := false } })

/-- The settling delay on edges of `clk_isr` (42_isr_handlers.md R206, 60_exceptions.md R274,
44_environment.md R246). On every edge in `SETTLE`, whatever else falls on it, the counter falls by one or,
at 0, the units are disabled. From a state whose transmit path is drained and has settled, the edges
succeed one after another: after `k` of them the counter is `k` less, the disable comes on the edge
after it has reached 0, and the transmit-empty interrupt, if it is still armed with `dre = 1`, disarms
itself on the first. -/
def Obligations.SettlingDelayTakesItsEdges : Prop :=
  (∀ (s : State) m t, s.cfg.level = .register → s.isr.phase = .settle →
    stepEvent (.clock .isr m) s = .next t →
    t.isr.baud = s.isr.baud ∧
    (s.isr.settleCnt ≠ 0 → t.isr.settleCnt = s.isr.settleCnt - 1 ∧ t.isr.phase = .settle ∧
      t.isr.rxen = s.isr.rxen ∧ t.isr.txen = s.isr.txen ∧ t.isr.rxcie = s.isr.rxcie ∧
      t.isr.enAck = s.isr.enAck) ∧
    (s.isr.settleCnt = 0 → t.isr.settleCnt = 0 ∧ t.isr.phase = .disabled ∧
      t.isr.rxen = false ∧ t.isr.txen = false ∧ t.isr.rxcie = false ∧ t.isr.dreie = false ∧
      t.isr.enAck = false ∧ t.ser.rxc = false)) ∧
  ∀ (s : State) m n, s.cfg.level = .register → s.isr.phase = .settle →
    s.isr.settleCnt.toNat = n → TxDrained s →
    (∀ k, k ≤ n → ∃ t, isrEdges m k s = .next t ∧
      t.isr.settleCnt.toNat = n - k ∧ t.isr.phase = .settle ∧ t.isr.rxen = s.isr.rxen ∧
      t.isr.txen = s.isr.txen ∧ t.isr.rxcie = s.isr.rxcie ∧ t.isr.enAck = s.isr.enAck ∧
      t.isr.dreie = (s.isr.dreie && (decide (k = 0) || !s.ser.dre)) ∧
      t.fg = s.fg ∧ t.isr.txRptr = s.isr.txRptr ∧ t.isr.txWview = s.isr.txWview ∧
      t.isr.baud = s.isr.baud ∧ t.ser.dre = s.ser.dre ∧ t.ghost = s.ghost) ∧
    ∃ t, isrEdges m (n + 1) s = .next t ∧
      t.isr.settleCnt = 0 ∧ t.isr.phase = .disabled ∧ t.isr.rxen = false ∧ t.isr.txen = false ∧
      t.isr.rxcie = false ∧ t.isr.dreie = false ∧ t.isr.enAck = false ∧ t.ser.rxc = false ∧
      t.fg = s.fg ∧ t.isr.txRptr = s.isr.txRptr ∧ t.isr.txWview = s.isr.txWview ∧
      t.isr.baud = s.isr.baud ∧ t.ser.dre = s.ser.dre ∧ t.ghost = s.ghost

/-- Every transition of `isr_phase` (42_isr_handlers.md R209). -/
def Obligations.IsrPhaseTransitions : Prop :=
  (∀ (s : State) t, exec (ctlInstr s.isr.phase) s = .next t →
    t.isr.phase = match s.isr.phase with
      | .disabled => if s.isr.enReqView then .enabled else .disabled
      | .enabled => if s.isr.enReqView then .enabled else .waitDre
      | .waitDre => if s.ser.dre then .settle else .waitDre
      | .settle => if s.cfg.level = .register ∧ s.isr.settleCnt ≠ 0 then .settle else .disabled) ∧
  (∀ i (s : State) t, exec i s = .next t → t.isr.phase ≠ s.isr.phase → i = ctlInstr s.isr.phase) ∧
  ∀ s : State, Inv s → s.isr.phase = .waitDre ∨ s.isr.phase = .settle →
    s.isr.enReqView = false ∧ s.fg.enReq = false

/-! ## The crossings and the environment -/

/-- SYNC.TXR, SYNC.RXR, SYNC.REQ and SYNC.ACK (43_cdc_sync.md R223, R225, R226, R227): the view of a
read pointer advances to any value from itself, excluded, to its original, included; a level's view
takes the level. -/
def Obligations.CrossingsWithoutSideEffect : Prop :=
  ∀ (s : State) x,
    (s.fg.phase ≠ .openInit → s.fg.phase ≠ .openWait → x.toNat < 2 ^ (s.cfg.nTx + 1) →
      s.fg.txRview ≠ s.isr.txRptr → x ≠ s.fg.txRview →
      occ s.cfg.nTx x s.fg.txRview ≤ occ s.cfg.nTx s.isr.txRptr s.fg.txRview →
      exec (.syncTxr x) s = .next { s with fg := { s.fg with txRview := x } }) ∧
    (s.isr.phase ≠ .disabled → x.toNat < 2 ^ (s.cfg.nRx + 1) →
      s.isr.rxRview ≠ s.fg.rxRptr → x ≠ s.isr.rxRview →
      occ s.cfg.nRx x s.isr.rxRview ≤ occ s.cfg.nRx s.fg.rxRptr s.isr.rxRview →
      exec (.syncRxr x) s = .next { s with isr := { s.isr with rxRview := x } }) ∧
    exec .syncReq s = .next { s with isr := { s.isr with enReqView := s.fg.enReq } } ∧
    exec .syncAck s = .next { s with fg := { s.fg with enAckView := s.isr.enAck } }

/-- SYNC.TXW and SYNC.RXW (43_cdc_sync.md R222, R224): the view of a write pointer advances; the first
arms the transmit-empty interrupt, the second refreshes `rx_err_view` from the newest visible tag. -/
def Obligations.WritePointerCrossings : Prop :=
  ∀ (s : State) x,
    (s.isr.phase ≠ .disabled → x.toNat < 2 ^ (s.cfg.nTx + 1) →
      s.isr.txWview ≠ s.fg.txWptr → x ≠ s.isr.txWview →
      occ s.cfg.nTx x s.isr.txWview ≤ occ s.cfg.nTx s.fg.txWptr s.isr.txWview →
      exec (.syncTxw x) s = .next { s with isr := { s.isr with txWview := x, dreie := true } }) ∧
    ∀ t, s.fg.phase ≠ .openInit → s.fg.phase ≠ .openWait → x.toNat < 2 ^ (s.cfg.nRx + 1) →
      s.fg.rxWview ≠ s.isr.rxWptr → x ≠ s.fg.rxWview →
      occ s.cfg.nRx x s.fg.rxWview ≤ occ s.cfg.nRx s.isr.rxWptr s.fg.rxWview →
      Mem.read s.isr.rxTag ((x.toNat + (2 ^ (s.cfg.nRx + 1) - 1)) % 2 ^ s.cfg.nRx) = some t →
      s.cfg.nRx ≤ 12 →
      exec (.syncRxw x) s =
        .next { s with fg := { s.fg with rxWview := x, rxErrView := t.setWidth 8 } }

/-- A crossing never moves a view backwards and never past its original (43_cdc_sync.md R221,
20_memory.md R79): from the old view on one meets the new view, then the original. -/
def Obligations.ViewsNeverPassTheirOriginals : Prop :=
  ∀ (s : State) t x, Shape s →
    (exec (.syncTxw x) s = .next t → s.isr.txWview.toNat < 2 ^ (s.cfg.nTx + 1) →
      occ s.cfg.nTx t.isr.txWview s.isr.txWview + occ s.cfg.nTx s.fg.txWptr t.isr.txWview =
        occ s.cfg.nTx s.fg.txWptr s.isr.txWview) ∧
    (exec (.syncTxr x) s = .next t → s.fg.txRview.toNat < 2 ^ (s.cfg.nTx + 1) →
      occ s.cfg.nTx t.fg.txRview s.fg.txRview + occ s.cfg.nTx s.isr.txRptr t.fg.txRview =
        occ s.cfg.nTx s.isr.txRptr s.fg.txRview) ∧
    (exec (.syncRxw x) s = .next t → s.fg.rxWview.toNat < 2 ^ (s.cfg.nRx + 1) →
      occ s.cfg.nRx t.fg.rxWview s.fg.rxWview + occ s.cfg.nRx s.isr.rxWptr t.fg.rxWview =
        occ s.cfg.nRx s.isr.rxWptr s.fg.rxWview) ∧
    (exec (.syncRxr x) s = .next t → s.isr.rxRview.toNat < 2 ^ (s.cfg.nRx + 1) →
      occ s.cfg.nRx t.isr.rxRview s.isr.rxRview + occ s.cfg.nRx s.fg.rxRptr t.isr.rxRview =
        occ s.cfg.nRx s.fg.rxRptr s.isr.rxRview)

/-- ENV.RX_ARRIVE and ENV.TX_READY (44_environment.md R242, R244). -/
def Obligations.EnvironmentSteps : Prop :=
  ∀ s : State,
    (∀ d e, s.isr.rxen = true → s.ser.rxc = false → exec (.envRxArrive d e) s = .next { s with
      ser := { s.ser with rxc := true, rxData := d, rxErr := e }
      ghost := { s.ghost with rxSource := s.ghost.rxSource ++ [(d, e)] } }) ∧
    (s.ser.dre = false → s.isr.txen = true →
      exec .envTxReady s = .next { s with ser := { s.ser with dre := true } })

/-- A step that its guard forbids leaves the state as it is: the model's reading of "held" and "not
enabled" (assumption log entry 4) of 42_isr_handlers.md R201 to R206, 43_cdc_sync.md R221, R228,
44_environment.md R242, R244, and of a port that accepts nothing (41_fg_commands.md R170). -/
def Obligations.ForbiddenStepsChangeNothing : Prop :=
  ∀ s : State,
    (s.fg.phase ≠ .idle → exec .nop s = .next s ∧ exec .read s = .next s ∧
      exec .txstat s = .next s ∧ exec .rxstat s = .next s ∧ exec .rsvd7 s = .next s) ∧
    (s.fg.phase = .sendWait ∨ s.fg.phase = .closeDrain ∨ s.fg.phase = .closeWait →
      ∀ b, exec (.openLine b) s = .next s) ∧
    (s.fg.phase = .sendWait ∨ s.fg.phase = .openInit ∨ s.fg.phase = .openWait →
      exec .closeLine s = .next s) ∧
    (s.fg.phase = .openInit ∨ s.fg.phase = .openWait ∨ s.fg.phase = .closeDrain ∨
      s.fg.phase = .closeWait → ∀ b, exec (.send b) s = .next s) ∧
    (s.irqRx = false → exec .isrRxc s = .next s) ∧
    (s.irqTx = false → exec .isrDre s = .next s) ∧
    (s.isr.phase ≠ .disabled ∨ s.isr.enReqView = false → exec .ctlEnable s = .next s) ∧
    (s.isr.phase ≠ .enabled ∨ s.isr.enReqView = true → exec .ctlClose1 s = .next s) ∧
    (s.isr.phase ≠ .waitDre ∨ s.ser.dre = false → exec .ctlClose2 s = .next s) ∧
    (s.isr.phase ≠ .settle → exec .ctlClose3 s = .next s) ∧
    (∀ x, s.isr.phase = .disabled ∨ s.isr.txWview = s.fg.txWptr ∨ x = s.isr.txWview ∨
      occ s.cfg.nTx s.fg.txWptr s.isr.txWview < occ s.cfg.nTx x s.isr.txWview →
      exec (.syncTxw x) s = .next s) ∧
    (∀ x, Opening s ∨ s.fg.txRview = s.isr.txRptr ∨ x = s.fg.txRview ∨
      occ s.cfg.nTx s.isr.txRptr s.fg.txRview < occ s.cfg.nTx x s.fg.txRview →
      exec (.syncTxr x) s = .next s) ∧
    (∀ x, Opening s ∨ s.fg.rxWview = s.isr.rxWptr ∨ x = s.fg.rxWview ∨
      occ s.cfg.nRx s.isr.rxWptr s.fg.rxWview < occ s.cfg.nRx x s.fg.rxWview →
      exec (.syncRxw x) s = .next s) ∧
    (∀ x, s.isr.phase = .disabled ∨ s.isr.rxRview = s.fg.rxRptr ∨ x = s.isr.rxRview ∨
      occ s.cfg.nRx s.fg.rxRptr s.isr.rxRview < occ s.cfg.nRx x s.isr.rxRview →
      exec (.syncRxr x) s = .next s) ∧
    (∀ d e, s.isr.rxen = false ∨ s.ser.rxc = true → exec (.envRxArrive d e) s = .next s) ∧
    (s.ser.dre = true ∨ s.isr.txen = false → exec .envTxReady s = .next s)

/-! ## The ring-buffer primitives -/

/-- RB.INIT (40_ring_buffer.md R141), which OPEN and CTL.ENABLE take in parts (41_fg_commands.md R172,
42_isr_handlers.md R203), the chains cleared with the views (43_cdc_sync.md R220). That an operand says
which part is taken, by itself, is the model's choice (assumption log entry 9). -/
def Obligations.RbInitParts : Prop :=
  ∀ s : State,
    exec (.rbInit .tx .fgAccept) s = .next { s with fg := { s.fg with txWptr := 0 } } ∧
    exec (.rbInit .rx .fgAccept) s = .next { s with fg := { s.fg with rxRptr := 0 } } ∧
    exec (.rbInit .tx .fgComplete) s = .next { s with fg := { s.fg with
      txRview := 0, qTxr := List.replicate (s.cfg.stages - 1) 0 } } ∧
    exec (.rbInit .rx .fgComplete) s = .next { s with fg := { s.fg with
      rxWview := 0, qRxw := List.replicate (s.cfg.stages - 1) 0 } } ∧
    exec (.rbInit .tx .isrHalf) s = .next { s with isr := { s.isr with
      txRptr := 0, txWview := 0, qTxw := List.replicate (s.cfg.stages - 1) 0 } } ∧
    exec (.rbInit .rx .isrHalf) s = .next { s with isr := { s.isr with
      rxWptr := 0, rxRview := 0, qRxr := List.replicate (s.cfg.stages - 1) 0 } }

/-- RB.IS_FULL, RB.IS_EMPTY and RB.OCC in each domain's opinion (40_ring_buffer.md R142 to R144); the
answer stands in the model's own record (assumption log entry 9), and nothing else changes. In one
opinion a buffer is never full and empty, and it is empty exactly if its occupancy is 0. -/
def Obligations.RbQueriesAnswer : Prop :=
  ∀ s : State,
    (∀ b d, (s.isFull b d && s.isEmpty b d) = false ∧
      (s.bufN b ≤ 12 → (s.wOf b d).toNat < 2 ^ (s.bufN b + 1) →
        (s.rOf b d).toNat < 2 ^ (s.bufN b + 1) → (s.isEmpty b d = true ↔ s.occOf b d = 0))) ∧
    (∀ b d, exec (.rbIsFull b d) s = .next { s with ghost := { s.ghost with
      rbAnswer := .flag (decide (s.occOf b d = 2 ^ s.bufN b)) } }) ∧
    (∀ b d, exec (.rbIsEmpty b d) s = .next { s with ghost := { s.ghost with
      rbAnswer := .flag (decide (s.wOf b d = s.rOf b d)) } }) ∧
    (∀ b d, exec (.rbOcc b d) s = .next { s with ghost := { s.ghost with
      rbAnswer := .count (s.occOf b d) } }) ∧
    s.occOf .tx .fg = occ s.cfg.nTx s.fg.txWptr s.fg.txRview ∧
    s.occOf .tx .isr = occ s.cfg.nTx s.isr.txWview s.isr.txRptr ∧
    s.occOf .rx .isr = occ s.cfg.nRx s.isr.rxWptr s.isr.rxRview ∧
    s.occOf .rx .fg = occ s.cfg.nRx s.fg.rxWview s.fg.rxRptr

/-- RB.PUSH and RB.POP past and against their preconditions (40_ring_buffer.md R145, R147). Taken by
themselves, with a pop's answer in the model's own record, they are the model's choice (assumption log
entry 9). -/
def Obligations.RbPushPop : Prop :=
  ∀ s : State,
    (∀ d t, s.isFull .tx .fg = false → ∃ m, exec (.rbPush .tx d t) s = .next { s with fg := { s.fg with
        txMem := m, txWptr := ptrInc s.cfg.nTx s.fg.txWptr } } ∧
      ∀ a, Mem.read (w := 8) m a = if a = idx s.cfg.nTx s.fg.txWptr then some d
        else Mem.read (w := 8) s.fg.txMem a) ∧
    (∀ d t, s.isFull .rx .isr = false → ∃ m g, exec (.rbPush .rx d t) s = .next { s with
        isr := { s.isr with
          rxMem := m, rxTag := g, rxWptr := ptrInc s.cfg.nRx s.isr.rxWptr } } ∧
      (∀ a, Mem.read (w := 8) m a = if a = idx s.cfg.nRx s.isr.rxWptr then some d
        else Mem.read (w := 8) s.isr.rxMem a) ∧
      ∀ a, Mem.read g a = if a = idx s.cfg.nRx s.isr.rxWptr then some t
        else Mem.read s.isr.rxTag a) ∧
    (∀ b d t, s.isFull b (producer b) = true → exec (.rbPush b d t) s = .next s) ∧
    (∀ d, s.isEmpty .tx .isr = false →
      Mem.read (w := 8) s.fg.txMem (idx s.cfg.nTx s.isr.txRptr) = some d →
      exec (.rbPop .tx) s = .next { s with
        isr := { s.isr with txRptr := ptrInc s.cfg.nTx s.isr.txRptr }
        ghost := { s.ghost with rbAnswer := .entry d none } }) ∧
    (∀ d t, s.isEmpty .rx .fg = false →
      Mem.read (w := 8) s.isr.rxMem (idx s.cfg.nRx s.fg.rxRptr) = some d →
      Mem.read s.isr.rxTag (idx s.cfg.nRx s.fg.rxRptr) = some t →
      exec (.rbPop .rx) s = .next { s with
        fg := { s.fg with rxRptr := ptrInc s.cfg.nRx s.fg.rxRptr }
        ghost := { s.ghost with rbAnswer := .entry d (some t) } }) ∧
    ∀ b, s.isEmpty b (consumer b) = true → exec (.rbPop b) s = .next s

/-! ## Ownership -/

/-- Each domain writes its own registers alone (10_state.md R20, 42_isr_handlers.md R210,
60_exceptions.md R273): a command touches no interrupt-domain register, a handler or CTL no foreground
register, a crossing only the domain it leads into, the environment neither. -/
def Obligations.DomainsKeepApart : Prop :=
  ∀ i (s : State) t, exec i s = .next t →
    (isFgCommand i → t.isr = s.isr ∧ t.ser = s.ser ∧ t.host = s.host ∧
      t.ghost.txSink = s.ghost.txSink ∧ t.ghost.rxSource = s.ghost.rxSource) ∧
    (isIsrOperation i → t.fg = s.fg ∧ t.host = s.host ∧ t.ghost.rxSource = s.ghost.rxSource) ∧
    ((∃ x, i = .syncTxw x ∨ i = .syncRxr x) ∨ i = .syncReq →
      t.fg = s.fg ∧ t.ser = s.ser ∧ t.host = s.host ∧ t.ghost = s.ghost) ∧
    ((∃ x, i = .syncTxr x ∨ i = .syncRxw x) ∨ i = .syncAck →
      t.isr = s.isr ∧ t.ser = s.ser ∧ t.host = s.host ∧ t.ghost = s.ghost) ∧
    ((∃ d e, i = .envRxArrive d e) ∨ i = .envTxReady →
      t.fg = s.fg ∧ t.isr = s.isr ∧ t.host = s.host) ∧
    t.sched = s.sched ∧ t.tick = s.tick ∧ t.stream = s.stream

/-- The single-writer table of 10_state.md R44 for the storages, pointers and views; the ring-buffer
primitives, which the table has inside commands and handlers, stand beside them. -/
def Obligations.StoragesHaveOneWriter : Prop :=
  ∀ i,
    (Writes i (·.fg.txMem) → (∃ b, i = .send b) ∨ ∃ d t, i = .rbPush .tx d t) ∧
    (Writes i (·.fg.txWptr) → (∃ b, i = .send b) ∨ (∃ b, i = .openLine b) ∨
      (∃ d t, i = .rbPush .tx d t) ∨ i = .rbInit .tx .fgAccept) ∧
    (Writes i (·.isr.txRptr) → i = .isrDre ∨ i = .ctlEnable ∨ i = .rbPop .tx ∨
      i = .rbInit .tx .isrHalf) ∧
    (Writes i (·.isr.txWview) → (∃ x, i = .syncTxw x) ∨ i = .ctlEnable ∨
      i = .rbInit .tx .isrHalf) ∧
    (Writes i (·.fg.txRview) → (∃ x, i = .syncTxr x) ∨ (∃ b, i = .openLine b) ∨
      i = .rbInit .tx .fgComplete) ∧
    (Writes i (fun s => (s.isr.rxMem, s.isr.rxTag)) → i = .isrRxc ∨ ∃ d t, i = .rbPush .rx d t) ∧
    (Writes i (·.isr.rxWptr) → i = .isrRxc ∨ i = .ctlEnable ∨ (∃ d t, i = .rbPush .rx d t) ∨
      i = .rbInit .rx .isrHalf) ∧
    (Writes i (·.fg.rxRptr) → i = .read ∨ (∃ b, i = .openLine b) ∨ i = .rbPop .rx ∨
      i = .rbInit .rx .fgAccept) ∧
    (Writes i (·.fg.rxWview) → (∃ x, i = .syncRxw x) ∨ (∃ b, i = .openLine b) ∨
      i = .rbInit .rx .fgComplete) ∧
    (Writes i (·.isr.rxRview) → (∃ x, i = .syncRxr x) ∨ i = .ctlEnable ∨
      i = .rbInit .rx .isrHalf)

/-- The single-writer table of 10_state.md R44 for the error fields, the line state, the sequencing
and control registers and the handshake. -/
def Obligations.RegistersHaveOneWriter : Prop :=
  ∀ i,
    (Writes i (fun s => (s.isr.lastRxError, s.isr.rxDropPending)) → i = .isrRxc ∨ i = .ctlEnable) ∧
    (Writes i (·.fg.rxErrView) → (∃ x, i = .syncRxw x) ∨ ∃ b, i = .openLine b) ∧
    (Writes i (·.fg.lineOpen) → (∃ b, i = .openLine b) ∨ i = .closeLine) ∧
    (Writes i (fun s => (s.fg.phase, s.fg.cmdHold, s.fg.rsp, s.fg.rspValid)) → isFgCommand i) ∧
    (Writes i (fun s => (s.fg.baudHold, s.fg.portcfg)) → ∃ b, i = .openLine b) ∧
    (Writes i (·.fg.enReq) → (∃ b, i = .openLine b) ∨ i = .closeLine) ∧
    (Writes i (·.isr.enReqView) → i = .syncReq) ∧
    (Writes i (·.isr.enAck) → i = .ctlEnable ∨ i = .ctlClose3) ∧
    (Writes i (·.fg.enAckView) → i = .syncAck) ∧
    (Writes i (fun s => (s.isr.phase, s.isr.settleCnt)) →
      i = .ctlEnable ∨ i = .ctlClose1 ∨ i = .ctlClose2 ∨ i = .ctlClose3) ∧
    (Writes i (fun s => (s.isr.rxen, s.isr.txen, s.isr.rxcie)) → i = .ctlEnable ∨ i = .ctlClose3) ∧
    (Writes i (·.isr.baud) → i = .ctlEnable) ∧
    (Writes i (·.isr.dreie) →
      (∃ x, i = .syncTxw x) ∨ i = .isrDre ∨ i = .ctlEnable ∨ i = .ctlClose3)

/-- A pointer is set to 0 by an initialisation, or moves by one, or stays (20_memory.md R71,
40_ring_buffer.md R146, 42_isr_handlers.md R210). -/
def Obligations.PointersMoveByOne : Prop :=
  ∀ i (s : State) t, exec i s = .next t →
    (t.fg.txWptr = s.fg.txWptr ∨ t.fg.txWptr = ptrInc s.cfg.nTx s.fg.txWptr ∨
      (t.fg.txWptr = 0 ∧ ((∃ b, i = .openLine b) ∨ ∃ p, i = .rbInit .tx p))) ∧
    (t.isr.txRptr = s.isr.txRptr ∨ t.isr.txRptr = ptrInc s.cfg.nTx s.isr.txRptr ∨
      (t.isr.txRptr = 0 ∧ (i = .ctlEnable ∨ ∃ p, i = .rbInit .tx p))) ∧
    (t.isr.rxWptr = s.isr.rxWptr ∨ t.isr.rxWptr = ptrInc s.cfg.nRx s.isr.rxWptr ∨
      (t.isr.rxWptr = 0 ∧ (i = .ctlEnable ∨ ∃ p, i = .rbInit .rx p))) ∧
    (t.fg.rxRptr = s.fg.rxRptr ∨ t.fg.rxRptr = ptrInc s.cfg.nRx s.fg.rxRptr ∨
      (t.fg.rxRptr = 0 ∧ ((∃ b, i = .openLine b) ∨ ∃ p, i = .rbInit .rx p)))

/-- A parameter is constant for the life of an instance (00_scope.md R6): no step at either level
changes one, nor does reset. -/
def Obligations.ParametersConstant : Prop :=
  ∀ (s : State) t, step s = .next t → t.cfg = s.cfg

/-- The instances of a device share nothing (10_state.md R42, 60_exceptions.md R276): a step of one leaves
the others as they were. There are `NUM_LINES` of them, at least one, by default one (00_scope.md R6), with
the same parameters. Each draws its free events from a stream of its own that no step changes; streams,
and one set of parameters for all, are the model's (assumption log entry 16). -/
def Obligations.LinesIndependent : Prop :=
  (∀ (ls ls' : Lines) k, ls.stepAt k = .next ls' →
    ls'.length = ls.length ∧ (∀ j, j ≠ k → ls'[j]? = ls[j]?) ∧
    ∀ s : State, ls[k]? = some s → ∃ t, step s = .next t ∧ ls'[k]? = some t) ∧
  (∀ d k, k < d.numLines →
    (Lines.reset d)[k]? = some { State.resetWith d.line with stream := k }) ∧
  (∀ d, d.wellFormed = true → Lines.wellFormed d (Lines.reset d) = true) ∧
  (∀ d (ls ls' : Lines) k, Lines.wellFormed d ls = true → ls.stepAt k = .next ls' →
    Lines.wellFormed d ls' = true ∧ 1 ≤ ls'.length) ∧
  DeviceParams.default.numLines = 1 ∧
  ∀ s t : State, (s.sched = [] → s.nextEvent = Config.freeEvent s.stream s.tick) ∧
    (step s = .next t → t.stream = s.stream)

/-! ## Invariants -/

/-- The state after reset meets both invariants, whatever the parameters. -/
def Obligations.ResetMeetsInvariants : Prop :=
  ∀ c : Params, c.wellFormed = true →
    Shape (State.resetWith c) ∧ (c.level = .agent → Inv (State.resetWith c))

/-- Every step, at the agent level or the register level, keeps the storages canonical and in range, the
pointers at `N + 1` bits, the three enables equal and on exactly while not DISABLED, the error bytes'
upper bits 0, and `S - 1` stages before the last in each of the six chains. -/
def Obligations.StepKeepsShape : Prop :=
  ∀ (s : State) t, Shape s → step s = .next t → Shape t

/-- Every agent-level step keeps the whole invariant: the order of pointers and views of 10_state.md
R24, the four-phase handshake, written entries between the pointers (20_memory.md R86), and no stranded
byte (42_isr_handlers.md R208). -/
def Obligations.StepKeepsInv : Prop :=
  ∀ (s : State) t, Inv s → step s = .next t → Inv t

/-- Only three values of CTRL are reachable (30_encoding.md R106). -/
def Obligations.OnlyThreeControlWords : Prop :=
  ∀ s : State, Shape s → s.ctrlWord = 0x0#4 ∨ s.ctrlWord = 0x7#4 ∨ s.ctrlWord = 0xF#4

/-- Both opinions of each buffer are conservative (40_ring_buffer.md R149). -/
def Obligations.OpinionsConservative : Prop :=
  ∀ s : State, Inv s → ¬Opening s → ∀ b,
    s.occOf b (consumer b) ≤ s.trueCount b ∧ s.trueCount b ≤ s.occOf b (producer b) ∧
    s.occOf b (producer b) ≤ 2 ^ s.bufN b ∧
    (s.isFull b (producer b) = false → s.trueCount b < 2 ^ s.bufN b) ∧
    (s.isEmpty b (consumer b) = false → 0 < s.trueCount b) ∧
    (s.isEmpty b (producer b) = true → s.trueCount b = 0) ∧
    (s.isFull b (consumer b) = true → s.trueCount b = 2 ^ s.bufN b)

/-- A producer that may write never addresses an entry the consumer may read (20_memory.md R83). -/
def Obligations.NoReadWriteCollision : Prop :=
  ∀ s : State, Inv s → ¬Opening s → ∀ b, s.isFull b (producer b) = false →
    ∀ k, k < s.occOf b (consumer b) →
      idx (s.bufN b) (ptrAdd (s.bufN b) (s.rOf b (consumer b)) k) ≠
        idx (s.bufN b) (s.wOf b (producer b))

/-- Nothing in the block faults (00_scope.md R13) and no step reads an entry nothing has written
(20_memory.md R86). -/
def Obligations.NoStepFaults : Prop :=
  ∀ s : State, Inv s → ∃ t, step s = .next t

/-- First in, first out, transmit direction (20_memory.md R80, 40_ring_buffer.md R148): the bytes handed
over and then those still held are the bytes of the completed SENDs in order, whatever the schedule; a
step adds the byte of the SEND it completes at the end and changes nothing else of the sequence. -/
def Obligations.TransmitOrder : Prop :=
  ∀ (s : State) t, Inv s → step s = .next t → ¬Opening s → ¬Opening t → s.nextEvent ≠ .reset →
    txStream t = txStream s ++ ((completedSend s).map some).toList

/-- First in, first out, receive direction (20_memory.md R80, 40_ring_buffer.md R148): a READ that
returns data returns the oldest unread byte and removes it with its tag; an `ISR.RXC` that stores adds
its byte and tag at the end; no other step changes the sequence. -/
def Obligations.ReceiveOrder : Prop :=
  ∀ (s : State) t, Inv s → step s = .next t → ¬Opening s → ¬Opening t → s.nextEvent ≠ .reset →
    if ReadsByte s then
      ∃ b g rest tags, rxQueue s = some b :: rest ∧ rxTags s = some g :: tags ∧
        rxQueue t = rest ∧ rxTags t = tags ∧ t.fg.rspValid = true ∧
        t.fg.rsp.extractLsb' 0 8 = b ∧ t.fg.rsp.getLsbD 8 = false ∧
        (s.cfg.errTagMode = .perByte → t.fg.rsp.extractLsb' 9 4 = g)
    else if StoresByte s then
      rxQueue t = rxQueue s ++ [some s.ser.rxData] ∧
        rxTags t = rxTags s ++ [some (BitVec.ofBool s.isr.rxDropPending ++ s.ser.rxErr)]
    else rxQueue t = rxQueue s ∧ rxTags t = rxTags s

/-- In a settled state every opinion is the true one (20_memory.md R81), and the eager-sync schedule's
answer to a step reaches a settled state with nothing but the views, the error view and the
transmit-empty arm changed (43_cdc_sync.md R232). -/
def Obligations.EagerSyncSettles : Prop :=
  (∀ s : State, Settled s → ∀ b d, s.occOf b d = s.trueCount b) ∧
  ∀ s : State, Inv s → ¬Opening s → s.isr.phase ≠ .disabled →
    ∃ e a, eagerSync s = .next { s with
        fg := { s.fg with
          txRview := s.isr.txRptr, rxWview := s.isr.rxWptr, enAckView := s.isr.enAck, rxErrView := e }
        isr := { s.isr with
          txWview := s.fg.txWptr, rxRview := s.fg.rxRptr, enReqView := s.fg.enReq, dreie := a } } ∧
      (s.isr.txWview ≠ s.fg.txWptr → a = true) ∧
      (s.isr.txWview = s.fg.txWptr → a = s.isr.dreie) ∧
      (s.fg.rxWview = s.isr.rxWptr → e = s.fg.rxErrView) ∧
      (s.fg.rxWview ≠ s.isr.rxWptr → some e = (Mem.read s.isr.rxTag
        (idx s.cfg.nRx (ptrPred s.cfg.nRx s.isr.rxWptr))).map (·.setWidth 8))

/-! ## Gray code and the register level -/

/-- Gray code (30_encoding.md R107) and its inverse (00_scope.md R10, 40_ring_buffer.md R146). -/
def Obligations.GrayCode : Prop :=
  (∀ n b, n ≤ 12 → b.toNat < 2 ^ (n + 1) →
    gray b = b ^^^ (b >>> 1) ∧ (gray b).toNat < 2 ^ (n + 1) ∧
    ∃ k, k ≤ n ∧ gray (ptrInc n b) = gray b ^^^ (1#13 <<< k)) ∧
  [0#13, 1#13, 2#13, 3#13, 4#13, 5#13, 6#13, 7#13].map gray =
    [0b000#13, 0b001#13, 0b011#13, 0b010#13, 0b110#13, 0b111#13, 0b101#13, 0b100#13] ∧
  (∀ b : Ptr, b.toNat < 2 → gray b = b) ∧
  (∀ b : Ptr, ungray (gray b) = b ∧ gray (ungray b) = b) ∧
  ∀ (g : Ptr) i, (ungray g).getLsbD i = xor ((ungray g).getLsbD (i + 1)) (g.getLsbD i)

/-- Full and empty tested on gray codes agree with the definitions (40_ring_buffer.md R150). -/
def Obligations.GrayFlagsAgree : Prop :=
  ∀ n w r, n ≤ 12 → w.toNat < 2 ^ (n + 1) → r.toNat < 2 ^ (n + 1) →
    (1 ≤ n → ((gray w = gray r ^^^ BitVec.ofNat 13 (3 <<< (n - 1))) ↔ occ n w r = 2 ^ n)) ∧
    ((gray r = gray w) ↔ r = w)

/-- Pointer arithmetic (40_ring_buffer.md R146, 20_memory.md R71): the increment wraps modulo
`2^(N+1)`, `occ(w, r)` is the unique `k` with `r + k = w`, and `idx(p + C) = idx(p)`. -/
def Obligations.PointerArithmetic : Prop :=
  ∀ n w r, n ≤ 12 → w.toNat < 2 ^ (n + 1) → r.toNat < 2 ^ (n + 1) →
    (ptrInc n w).toNat = (w.toNat + 1) % 2 ^ (n + 1) ∧ occ n w r < 2 ^ (n + 1) ∧
    (∀ k, k < 2 ^ (n + 1) → ((r.toNat + k) % 2 ^ (n + 1) = w.toNat ↔ k = occ n w r)) ∧
    idx n (ptrAdd n r (2 ^ n)) = idx n r

/-- A synchroniser chain (43_cdc_sync.md R220, R231): samples leave in the order they entered; a source
that holds its value is in every stage after as many edges as there are stages; a source that changes in
one bit is never sampled at a third value. In the machine a chain has `S` stages, so `en_req` is seen
after `S` edges of `clk_isr`. On an edge of both clocks inside one sampling window each chain samples bit by
bit the source's value before the edge or after it, by the draw, and each domain does what its own edge
does from the state before: bundled data is not rewritten on that edge (R229; assumption log entry 12,
DEDUCED). -/
def Obligations.ChainDeliversHeldValues : Prop :=
  (∀ (α : Type) (g v : α) (q : List α),
    chainRun g (q.length + 1) (q, v) = (List.replicate q.length g, g) ∧
    ∀ k, k < q.length → some (chainRun g (k + 1) (q, v)).2 = q[q.length - 1 - k]?) ∧
  (∀ (m old new : Ptr) (k : Nat), new = old ^^^ (1#13 <<< k) →
    sampleBits m old new = old ∨ sampleBits m old new = new) ∧
  (∀ (m old new : Ptr) (k : Nat), (sampleBits m old new).getLsbD k =
    if m.getLsbD k then old.getLsbD k else new.getLsbD k) ∧
  (∀ (s : State) m t, Shape s → s.cfg.level = .register → isrEdges m s.cfg.stages s = .next t →
    t.isr.enReqView = s.fg.enReq ∧ t.isr.qReq = List.replicate (s.cfg.stages - 1) s.fg.enReq) ∧
  ∀ (s : State) m f i (g : FgSample) (h : IsrSample),
    fgEdge s.fgSource s = .next f → isrEdge s.isrSource s = .next i →
    g = ⟨sampleBits m.txr (gray s.isr.txRptr) (gray i.isr.txRptr),
      sampleBits m.rxw (gray s.isr.rxWptr) (gray i.isr.rxWptr),
      if m.ack then s.isr.enAck else i.isr.enAck⟩ →
    h = ⟨sampleBits m.txw (gray s.fg.txWptr) (gray f.fg.txWptr),
      sampleBits m.rxr (gray s.fg.rxRptr) (gray f.fg.rxRptr),
      if m.req then s.fg.enReq else f.fg.enReq⟩ →
    clockStep .both m s = andThen (fgEdge g s) (isrEdge h) ∧
    ∀ a u, fgEdge g s = .next a → isrEdge h s = .next u →
      (s.txWr = true → Mem.read (w := 8) a.fg.txMem (idx s.cfg.nTx s.isr.txRptr) =
        Mem.read (w := 8) s.fg.txMem (idx s.cfg.nTx s.isr.txRptr)) →
      (s.isr.phase = .disabled → s.isr.enReqView = true → a.fg.baudHold = s.fg.baudHold) →
      clockStep .both m s = .next { a with
        isr := u.isr, ser := u.ser, ghost := { a.ghost with txSink := u.ghost.txSink } }

/-- One `clk_fg` edge (43_cdc_sync.md R220, 41_fg_commands.md R183): it samples the gray registers and
`en_ack`; it equals FG's step and then the crossings' steps, modulo the chains' inner stages, wherever
the crossings are enabled before and after; and OPEN.3 wins over the chains it clears. The whole state after
an edge is given from what FG's step leaves: all three chains shift, inside the OPEN window too (R228),
and `rx_err_view` follows a new `rx_wview` unless the phase before the edge is in that window. The edges
of OPEN are then written out: OPEN.1, OPEN.2, a held `OPEN_WAIT` edge, and OPEN.3. That `rsp_valid` is 0 on
the edges that do not complete, and where `portcfg` falls, is assumption log entry 10 (DEDUCED); that
`cmd_valid` falls at OPEN.1 is entry 20 (DEDUCED). -/
def Obligations.ForegroundEdge : Prop :=
  (∀ (s : State) m, clockStep .fg m s =
    fgEdge ⟨gray s.isr.txRptr, gray s.isr.rxWptr, s.isr.enAck⟩ s) ∧
  (∀ g (s : State) t, fgStep s = .next t → ¬Opening s → ¬Opening t →
    (ungray (chainShift g.txr s.fg.qTxr).2 = s.fg.txRview ∨ mayAdvance s.cfg.nTx s.fg.txRview
      (ungray (chainShift g.txr s.fg.qTxr).2) s.isr.txRptr = true) →
    (ungray (chainShift g.rxw s.fg.qRxw).2 = s.fg.rxWview ∨ mayAdvance s.cfg.nRx s.fg.rxWview
      (ungray (chainShift g.rxw s.fg.qRxw).2) s.isr.rxWptr = true) →
    ((chainShift g.ack s.fg.qAck).2 = s.fg.enAckView ∨
      (chainShift g.ack s.fg.qAck).2 = s.isr.enAck) →
    sameButChains (fgEdge g s)
      (andThen (if ungray (chainShift g.txr s.fg.qTxr).2 = s.fg.txRview then .next t
        else exec (.syncTxr (ungray (chainShift g.txr s.fg.qTxr).2)) t) fun u =>
      andThen (if ungray (chainShift g.rxw s.fg.qRxw).2 = s.fg.rxWview then .next u
        else exec (.syncRxw (ungray (chainShift g.rxw s.fg.qRxw).2)) u) fun v =>
      if (chainShift g.ack s.fg.qAck).2 = s.fg.enAckView then .next v else exec .syncAck v)) ∧
  (∀ g (s : State) a e, fgStep s = .next a →
    ¬(s.fg.phase = .openWait ∧ s.fg.enAckView = true) →
    (if Opening s ∨ ungray (chainShift g.rxw s.fg.qRxw).2 = s.fg.rxWview then e = s.fg.rxErrView
      else (Mem.read s.isr.rxTag (idx s.cfg.nRx (ptrPred s.cfg.nRx
        (ungray (chainShift g.rxw s.fg.qRxw).2)))).map (·.setWidth 8) = some e) →
    fgEdge g s = .next { a with fg := { a.fg with
      txRview := ungray (chainShift g.txr s.fg.qTxr).2, qTxr := (chainShift g.txr s.fg.qTxr).1
      rxWview := ungray (chainShift g.rxw s.fg.qRxw).2, qRxw := (chainShift g.rxw s.fg.qRxw).1
      rxErrView := e
      enAckView := (chainShift g.ack s.fg.qAck).2, qAck := (chainShift g.ack s.fg.qAck).1 } }) ∧
  (∀ g (s : State) baud e, s.fg.phase = .idle → s.fg.lineOpen = false → s.host.cmdValid = true →
    decodeCmd s.host.cmd = .openLine baud →
    (if ungray (chainShift g.rxw s.fg.qRxw).2 = s.fg.rxWview then e = s.fg.rxErrView
      else (Mem.read s.isr.rxTag (idx s.cfg.nRx (ptrPred s.cfg.nRx
        (ungray (chainShift g.rxw s.fg.qRxw).2)))).map (·.setWidth 8) = some e) →
    fgEdge g s = .next { s with
      fg := { s.fg with
        txWptr := 0, rxRptr := 0, baudHold := baud, portcfg := true, phase := .openInit
        rspValid := false
        txRview := ungray (chainShift g.txr s.fg.qTxr).2, qTxr := (chainShift g.txr s.fg.qTxr).1
        rxWview := ungray (chainShift g.rxw s.fg.qRxw).2, qRxw := (chainShift g.rxw s.fg.qRxw).1
        rxErrView := e
        enAckView := (chainShift g.ack s.fg.qAck).2, qAck := (chainShift g.ack s.fg.qAck).1 }
      host := { s.host with cmdValid := false }
      ghost := { s.ghost with portcfgCount := s.ghost.portcfgCount + 1 } }) ∧
  (∀ g (s : State), s.fg.phase = .openInit → fgEdge g s = .next { s with fg := { s.fg with
    portcfg := false, enReq := true, phase := .openWait, rspValid := false
    txRview := ungray (chainShift g.txr s.fg.qTxr).2, qTxr := (chainShift g.txr s.fg.qTxr).1
    rxWview := ungray (chainShift g.rxw s.fg.qRxw).2, qRxw := (chainShift g.rxw s.fg.qRxw).1
    enAckView := (chainShift g.ack s.fg.qAck).2, qAck := (chainShift g.ack s.fg.qAck).1 } }) ∧
  (∀ g (s : State), s.fg.phase = .openWait → s.fg.enAckView = false →
    fgEdge g s = .next { s with fg := { s.fg with
      rspValid := false
      txRview := ungray (chainShift g.txr s.fg.qTxr).2, qTxr := (chainShift g.txr s.fg.qTxr).1
      rxWview := ungray (chainShift g.rxw s.fg.qRxw).2, qRxw := (chainShift g.rxw s.fg.qRxw).1
      enAckView := (chainShift g.ack s.fg.qAck).2, qAck := (chainShift g.ack s.fg.qAck).1 } }) ∧
  ∀ g (s : State), s.fg.phase = .openWait → s.fg.enAckView = true →
    fgEdge g s = .next { s with fg := { s.fg with
      txRview := 0, qTxr := List.replicate (s.cfg.stages - 1) 0
      rxWview := 0, qRxw := List.replicate (s.cfg.stages - 1) 0
      rxErrView := 0, lineOpen := true, rsp := 0x0000#16, rspValid := true, phase := .idle
      enAckView := (chainShift g.ack s.fg.qAck).2, qAck := (chainShift g.ack s.fg.qAck).1 } }

/-- One `clk_isr` edge (43_cdc_sync.md R220, 42_isr_handlers.md R207): it samples the gray registers and
`en_req`; every agent's guard is the state's before the edge; on `CTRL.DREIE` a CTL clear beats a
`SYNC.TXW` set, which beats an `ISR.DRE` clear; CTL.ENABLE's clears beat the chains. The whole state after
the edge is given from what the two handlers leave. And the edge equals its steps taken one at a time in
the order of R207, modulo the chains' inner stages, where each crossing is enabled or shows nothing new
and no step before CTL's on the edge turns its guard off or on. That CTL's guard is the state's before the
edge and its step applied last is assumption log entry 12 (DEDUCED); that `rx_data` and `rx_err` keep
their values as the disable drops `rxc` is entry 17 (DEDUCED). -/
def Obligations.InterruptEdge : Prop :=
  (∀ (s : State) m, clockStep .isr m s =
    isrEdge ⟨gray s.fg.txWptr, gray s.fg.rxRptr, s.fg.enReq⟩ s) ∧
  (∀ g (s : State) t, isrEdge g s = .next t →
    t.fg = s.fg ∧
    t.isr.dreie =
      (if (s.isr.phase = .disabled ∧ s.isr.enReqView = true) ∨
          (s.isr.phase = .settle ∧ s.isr.settleCnt = 0) then false
       else if s.isr.phase ≠ .disabled ∧ ungray (chainShift g.txw s.isr.qTxw).2 ≠ s.isr.txWview then
         true
       else if s.irqTx && s.txEmptyIsr then false else s.isr.dreie) ∧
    (t.isr.txWview, t.isr.rxRview) =
      (if s.isr.phase = .disabled ∧ s.isr.enReqView = true then (0, 0)
       else (ungray (chainShift g.txw s.isr.qTxw).2, ungray (chainShift g.rxr s.isr.qRxr).2)) ∧
    t.isr.enReqView = (chainShift g.req s.isr.qReq).2 ∧
    t.isr.phase = (match s.isr.phase with
      | .disabled => if s.isr.enReqView then .enabled else .disabled
      | .enabled => if s.isr.enReqView then .enabled else .waitDre
      | .waitDre => if s.ser.dre then .settle else .waitDre
      | .settle => if s.isr.settleCnt ≠ 0 then .settle else .disabled)) ∧
  (∀ g (s : State) t, isrEdge g s = .next t →
    ∃ a b, exec .isrRxc s = .next a ∧ exec .isrDre a = .next b ∧
    (s.isr.phase = .disabled → s.isr.enReqView = true → t = { b with isr := { b.isr with
      txRptr := 0, rxWptr := 0
      txWview := 0, qTxw := List.replicate (s.cfg.stages - 1) 0
      rxRview := 0, qRxr := List.replicate (s.cfg.stages - 1) 0
      enReqView := (chainShift g.req s.isr.qReq).2, qReq := (chainShift g.req s.isr.qReq).1
      lastRxError := 0, rxDropPending := false, baud := s.fg.baudHold
      rxen := true, txen := true, rxcie := true, dreie := false
      enAck := true, phase := .enabled } }) ∧
    (s.isr.phase = .settle → s.isr.settleCnt = 0 → t = { b with
      isr := { b.isr with
        txWview := ungray (chainShift g.txw s.isr.qTxw).2, qTxw := (chainShift g.txw s.isr.qTxw).1
        rxRview := ungray (chainShift g.rxr s.isr.qRxr).2, qRxr := (chainShift g.rxr s.isr.qRxr).1
        enReqView := (chainShift g.req s.isr.qReq).2, qReq := (chainShift g.req s.isr.qReq).1
        rxen := false, txen := false, rxcie := false, dreie := false
        enAck := false, phase := .disabled }
      ser := { b.ser with rxc := false } }) ∧
    (¬(s.isr.phase = .disabled ∧ s.isr.enReqView = true) →
      ¬(s.isr.phase = .settle ∧ s.isr.settleCnt = 0) → t = { b with isr := { b.isr with
        txWview := ungray (chainShift g.txw s.isr.qTxw).2, qTxw := (chainShift g.txw s.isr.qTxw).1
        rxRview := ungray (chainShift g.rxr s.isr.qRxr).2, qRxr := (chainShift g.rxr s.isr.qRxr).1
        enReqView := (chainShift g.req s.isr.qReq).2, qReq := (chainShift g.req s.isr.qReq).1
        dreie := if s.isr.phase ≠ .disabled ∧
            ungray (chainShift g.txw s.isr.qTxw).2 ≠ s.isr.txWview then true else b.isr.dreie
        settleCnt := (match s.isr.phase with
          | .disabled => s.isr.settleCnt
          | .enabled => s.isr.settleCnt
          | .waitDre => if s.ser.dre then s.cfg.tSettle else s.isr.settleCnt
          | .settle => s.isr.settleCnt - 1)
        phase := t.isr.phase } })) ∧
  ∀ g (s : State) a b, s.cfg.level = .register →
    exec .isrRxc s = .next a → exec .isrDre a = .next b →
    (ungray (chainShift g.txw s.isr.qTxw).2 = s.isr.txWview ∨
      (s.isr.phase ≠ .disabled ∧ mayAdvance s.cfg.nTx s.isr.txWview
        (ungray (chainShift g.txw s.isr.qTxw).2) s.fg.txWptr = true) ∨
      (s.isr.phase = .disabled ∧ s.isr.enReqView = true)) →
    (ungray (chainShift g.rxr s.isr.qRxr).2 = s.isr.rxRview ∨
      (s.isr.phase ≠ .disabled ∧ mayAdvance s.cfg.nRx s.isr.rxRview
        (ungray (chainShift g.rxr s.isr.qRxr).2) s.fg.rxRptr = true) ∨
      (s.isr.phase = .disabled ∧ s.isr.enReqView = true)) →
    ((chainShift g.req s.isr.qReq).2 = s.isr.enReqView ∨
      (chainShift g.req s.isr.qReq).2 = s.fg.enReq) →
    (s.isr.phase = .disabled → s.isr.enReqView = true → (chainShift g.req s.isr.qReq).2 = true) →
    (s.isr.phase = .enabled → s.isr.enReqView = false →
      (chainShift g.req s.isr.qReq).2 = false) →
    (s.isr.phase = .waitDre → s.txWr = false) →
    sameButChains (isrEdge g s)
      (andThen (if ungray (chainShift g.txw s.isr.qTxw).2 = s.isr.txWview then .next b
        else exec (.syncTxw (ungray (chainShift g.txw s.isr.qTxw).2)) b) fun u =>
      andThen (if ungray (chainShift g.rxr s.isr.qRxr).2 = s.isr.rxRview then .next u
        else exec (.syncRxr (ungray (chainShift g.rxr s.isr.qRxr).2)) u) fun v =>
      andThen (if (chainShift g.req s.isr.qReq).2 = s.isr.enReqView then .next v
        else exec .syncReq v) fun w =>
      ctlIfEnabled s w)

/-! ## Reset and liveness -/

/-- The state after reset (10_state.md R41, 70_reset_and_hazards.md R301, vector V77), for every legal
choice of parameters: registers, chains (their stages before the last, `S - 1` each, the last being the
view), gray registers, outputs, settledness and the first responses. -/
def Obligations.StateAfterReset : Prop :=
  ∀ c : Params, ∀ s : State, s = State.resetWith c →
    (s.fg.lineOpen = false ∧ s.fg.phase = .idle ∧ s.fg.cmdHold = 0 ∧ s.fg.baudHold = 0 ∧
      s.fg.txWptr = 0 ∧ s.fg.rxRptr = 0 ∧ s.fg.txRview = 0 ∧ s.fg.rxWview = 0 ∧
      s.fg.enAckView = false ∧ s.fg.rxErrView = 0 ∧ s.fg.enReq = false ∧ s.fg.rsp = 0 ∧
      s.fg.rspValid = false ∧ s.fg.portcfg = false ∧
      s.fg.qTxr = List.replicate (c.stages - 1) 0 ∧ s.fg.qRxw = List.replicate (c.stages - 1) 0 ∧
      s.fg.qAck = List.replicate (c.stages - 1) false ∧ s.txWgray = 0 ∧ s.rxRgray = 0) ∧
    (s.isr.phase = .disabled ∧ s.isr.settleCnt = 0 ∧ s.isr.baud = 0 ∧ s.ctrlWord = 0x0#4 ∧
      s.isr.txRptr = 0 ∧ s.isr.rxWptr = 0 ∧ s.isr.txWview = 0 ∧ s.isr.rxRview = 0 ∧
      s.isr.enReqView = false ∧ s.isr.lastRxError = 0 ∧ s.isr.rxDropPending = false ∧
      s.isr.enAck = false ∧
      s.isr.qTxw = List.replicate (c.stages - 1) 0 ∧ s.isr.qRxr = List.replicate (c.stages - 1) 0 ∧
      s.isr.qReq = List.replicate (c.stages - 1) false ∧ s.txRgray = 0 ∧ s.rxWgray = 0) ∧
    (s.ser.rxc = false ∧ s.ser.dre = true ∧ s.ghost.txSink = [] ∧ s.ghost.rxSource = [] ∧
      s.ghost.portcfgCount = 0) ∧
    (s.cmdReady = true ∧ s.txWr = false ∧ s.rxRd = false ∧ s.irqRx = false ∧ s.irqTx = false ∧
      Settled s) ∧
    ∀ i v, (i, v) ∈ [(Instr.nop, 0x0000#16), (.txstat, 0x6000#16), (.rxstat, 0x6000#16),
        (.read, 0x2100#16), (.send 0x00#8, 0x2000#16), (.closeLine, 0x2000#16),
        (.rsvd7, 0x8000#16)] →
      exec i s = .next { s with fg := { s.fg with rsp := v, rspValid := true } }

/-- The reset event in any state (70_reset_and_hazards.md R300, R303, R304): every register as after
reset, the storages and the parameters kept, the ghost lists emptied (assumption log entry 6); the
host's side is not the block's (assumption log entry 7). -/
def Obligations.ResetEvent : Prop :=
  ∀ s : State, stepEvent .reset s = .next { s with
    fg := { FgRegs.reset s.cfg with txMem := s.fg.txMem }
    isr := { IsrRegs.reset s.cfg with rxMem := s.isr.rxMem, rxTag := s.isr.rxTag }
    ser := { s.ser with rxc := false, dre := true }
    ghost := Ghost.reset }

/-- Under the fairness of 43_cdc_sync.md R230 every OPEN in progress completes (41_fg_commands.md R181),
as long as the block is not reset. -/
def Obligations.FairOpenCompletes : Prop :=
  ∀ (r : Run) n, r.Fair → Inv (r.states n) → Opening (r.states n) →
    (∀ m, n ≤ m → r.events m ≠ .reset) →
    ∃ m, n ≤ m ∧ (r.states m).fg.phase = .idle ∧ (r.states m).fg.lineOpen = true ∧
      (r.states m).fg.rsp = 0x0000#16 ∧ (r.states m).fg.rspValid = true
end

