-- ==== Sys2Proof/Laws/Mem.lean ====
section
/-! SUPPORT. Laws of the storages: what a read gives after a write, and that a write keeps the canonical
form and the range of indices. -/

namespace Sys2Proof.Machine

variable {k : Nat}

theorem Mem.read_write (m : Mem k) (i j : Nat) (b : BitVec k) :
    Mem.read (Mem.write m i b) j = if j = i then some b else Mem.read m j := by
  induction m with
  | nil => simp [Mem.write, Mem.read]
  | cons x t ih =>
    obtain ⟨a, c⟩ := x
    simp only [Mem.write]
    split
    · simp [Mem.read]
    · split
      · next h => subst h; simp only [Mem.read]; split <;> rfl
      · next h => simp only [Mem.read, ih]; split <;> split <;> simp_all

@[simp] theorem Mem.read_write_same (m : Mem k) (i : Nat) (b : BitVec k) :
    Mem.read (Mem.write m i b) i = some b := by simp [Mem.read_write]

theorem Mem.read_write_other (m : Mem k) {i j : Nat} (b : BitVec k) (h : j ≠ i) :
    Mem.read (Mem.write m i b) j = Mem.read m j := by simp [Mem.read_write, h]

/-- Every entry of a written storage is the entry written or an old one. -/
theorem Mem.mem_write {m : Mem k} {i : Nat} {b : BitVec k} {x : Nat × BitVec k}
    (h : x ∈ Mem.write m i b) : x = (i, b) ∨ x ∈ m := by
  induction m with
  | nil => simpa [Mem.write] using h
  | cons y t ih =>
    obtain ⟨a, c⟩ := y
    simp only [Mem.write] at h
    split at h
    · simpa using h
    · split at h
      · rcases List.mem_cons.1 h with h | h
        · exact .inl h
        · exact .inr (List.mem_cons_of_mem _ h)
      · rcases List.mem_cons.1 h with h | h
        · exact .inr (h ▸ List.mem_cons_self)
        · rcases ih h with h | h
          · exact .inl h
          · exact .inr (List.mem_cons_of_mem _ h)

/-- A write keeps the canonical form. -/
theorem Mem.wf_write {m : Mem k} (h : Mem.wf m) (i : Nat) (b : BitVec k) :
    Mem.wf (Mem.write m i b) := by
  induction m with
  | nil => simp [Mem.write, Mem.wf]
  | cons y t ih =>
    obtain ⟨a, c⟩ := y
    obtain ⟨h1, h2⟩ := List.pairwise_cons.1 h
    simp only [Mem.write]
    split
    · next hi =>
      refine List.pairwise_cons.2 ⟨?_, h⟩
      intro x hx
      rcases List.mem_cons.1 hx with hx | hx
      · subst hx; exact hi
      · exact Nat.lt_trans hi (h1 x hx)
    · split
      · next hi => subst hi; exact List.pairwise_cons.2 ⟨h1, h2⟩
      · next hlt hne =>
        refine List.pairwise_cons.2 ⟨?_, ih h2⟩
        intro x hx
        rcases Mem.mem_write hx with hx | hx
        · subst hx; show a < i; omega
        · exact h1 x hx

/-- A write inside the range keeps every index inside it. -/
theorem Mem.range_write {m : Mem k} {c i : Nat} (h : ∀ x ∈ m, x.1 < c) (hi : i < c) (b : BitVec k) :
    ∀ x ∈ Mem.write m i b, x.1 < c := by
  intro x hx
  rcases Mem.mem_write hx with hx | hx
  · subst hx; exact hi
  · exact h x hx

/-- What was written once stays written. -/
theorem Mem.isSome_write {m : Mem k} {j : Nat} (h : (Mem.read m j).isSome = true) (i : Nat)
    (b : BitVec k) : (Mem.read (Mem.write m i b) j).isSome = true := by
  rw [Mem.read_write]; split <;> simp_all

end Sys2Proof.Machine
end

