-- ==== Sys2Proof/Laws/State.lean ====
section
/-! SUPPORT. What every named update of the state does to each part of it, true by definition: the simp set
that keeps later proofs from unfolding a record update. -/

namespace Sys2Proof.Machine

variable (s : State)

@[simp] theorem State.respond_cfg (v : RspWord) : (s.respond v).cfg = s.cfg := rfl
@[simp] theorem State.respond_fg (v : RspWord) :
    (s.respond v).fg = { s.fg with rsp := v, rspValid := true, phase := .idle } := rfl
@[simp] theorem State.respond_isr (v : RspWord) : (s.respond v).isr = s.isr := rfl
@[simp] theorem State.respond_ser (v : RspWord) : (s.respond v).ser = s.ser := rfl
@[simp] theorem State.respond_host (v : RspWord) : (s.respond v).host = s.host := rfl
@[simp] theorem State.respond_ghost (v : RspWord) : (s.respond v).ghost = s.ghost := rfl
@[simp] theorem State.respond_sched (v : RspWord) : (s.respond v).sched = s.sched := rfl
@[simp] theorem State.respond_tick (v : RspWord) : (s.respond v).tick = s.tick := rfl
@[simp] theorem State.respond_stream (v : RspWord) : (s.respond v).stream = s.stream := rfl

@[simp] theorem State.fgHeld_cfg : (s.fgHeld).cfg = s.cfg := rfl
@[simp] theorem State.fgHeld_fg : (s.fgHeld).fg = { s.fg with rspValid := false } := rfl
@[simp] theorem State.fgHeld_isr : (s.fgHeld).isr = s.isr := rfl
@[simp] theorem State.fgHeld_ser : (s.fgHeld).ser = s.ser := rfl
@[simp] theorem State.fgHeld_host : (s.fgHeld).host = s.host := rfl
@[simp] theorem State.fgHeld_ghost : (s.fgHeld).ghost = s.ghost := rfl
@[simp] theorem State.fgHeld_sched : (s.fgHeld).sched = s.sched := rfl
@[simp] theorem State.fgHeld_tick : (s.fgHeld).tick = s.tick := rfl
@[simp] theorem State.fgHeld_stream : (s.fgHeld).stream = s.stream := rfl

@[simp] theorem State.initFgPtr_tx_cfg : (s.initFgPtr .tx).cfg = s.cfg := rfl
@[simp] theorem State.initFgPtr_tx_fg : (s.initFgPtr .tx).fg = { s.fg with txWptr := 0 } := rfl
@[simp] theorem State.initFgPtr_tx_isr : (s.initFgPtr .tx).isr = s.isr := rfl
@[simp] theorem State.initFgPtr_tx_ser : (s.initFgPtr .tx).ser = s.ser := rfl
@[simp] theorem State.initFgPtr_tx_host : (s.initFgPtr .tx).host = s.host := rfl
@[simp] theorem State.initFgPtr_tx_ghost : (s.initFgPtr .tx).ghost = s.ghost := rfl
@[simp] theorem State.initFgPtr_tx_sched : (s.initFgPtr .tx).sched = s.sched := rfl
@[simp] theorem State.initFgPtr_tx_tick : (s.initFgPtr .tx).tick = s.tick := rfl
@[simp] theorem State.initFgPtr_tx_stream : (s.initFgPtr .tx).stream = s.stream := rfl

@[simp] theorem State.initFgPtr_rx_cfg : (s.initFgPtr .rx).cfg = s.cfg := rfl
@[simp] theorem State.initFgPtr_rx_fg : (s.initFgPtr .rx).fg = { s.fg with rxRptr := 0 } := rfl
@[simp] theorem State.initFgPtr_rx_isr : (s.initFgPtr .rx).isr = s.isr := rfl
@[simp] theorem State.initFgPtr_rx_ser : (s.initFgPtr .rx).ser = s.ser := rfl
@[simp] theorem State.initFgPtr_rx_host : (s.initFgPtr .rx).host = s.host := rfl
@[simp] theorem State.initFgPtr_rx_ghost : (s.initFgPtr .rx).ghost = s.ghost := rfl
@[simp] theorem State.initFgPtr_rx_sched : (s.initFgPtr .rx).sched = s.sched := rfl
@[simp] theorem State.initFgPtr_rx_tick : (s.initFgPtr .rx).tick = s.tick := rfl
@[simp] theorem State.initFgPtr_rx_stream : (s.initFgPtr .rx).stream = s.stream := rfl

@[simp] theorem State.initFgView_tx_cfg : (s.initFgView .tx).cfg = s.cfg := rfl
@[simp] theorem State.initFgView_tx_fg :
    (s.initFgView .tx).fg = { s.fg with txRview := 0, qTxr := List.replicate (s.cfg.stages - 1) 0 } := rfl
@[simp] theorem State.initFgView_tx_isr : (s.initFgView .tx).isr = s.isr := rfl
@[simp] theorem State.initFgView_tx_ser : (s.initFgView .tx).ser = s.ser := rfl
@[simp] theorem State.initFgView_tx_host : (s.initFgView .tx).host = s.host := rfl
@[simp] theorem State.initFgView_tx_ghost : (s.initFgView .tx).ghost = s.ghost := rfl
@[simp] theorem State.initFgView_tx_sched : (s.initFgView .tx).sched = s.sched := rfl
@[simp] theorem State.initFgView_tx_tick : (s.initFgView .tx).tick = s.tick := rfl
@[simp] theorem State.initFgView_tx_stream : (s.initFgView .tx).stream = s.stream := rfl

@[simp] theorem State.initFgView_rx_cfg : (s.initFgView .rx).cfg = s.cfg := rfl
@[simp] theorem State.initFgView_rx_fg :
    (s.initFgView .rx).fg = { s.fg with rxWview := 0, qRxw := List.replicate (s.cfg.stages - 1) 0 } := rfl
@[simp] theorem State.initFgView_rx_isr : (s.initFgView .rx).isr = s.isr := rfl
@[simp] theorem State.initFgView_rx_ser : (s.initFgView .rx).ser = s.ser := rfl
@[simp] theorem State.initFgView_rx_host : (s.initFgView .rx).host = s.host := rfl
@[simp] theorem State.initFgView_rx_ghost : (s.initFgView .rx).ghost = s.ghost := rfl
@[simp] theorem State.initFgView_rx_sched : (s.initFgView .rx).sched = s.sched := rfl
@[simp] theorem State.initFgView_rx_tick : (s.initFgView .rx).tick = s.tick := rfl
@[simp] theorem State.initFgView_rx_stream : (s.initFgView .rx).stream = s.stream := rfl

@[simp] theorem State.initIsr_tx_cfg : (s.initIsr .tx).cfg = s.cfg := rfl
@[simp] theorem State.initIsr_tx_fg : (s.initIsr .tx).fg = s.fg := rfl
@[simp] theorem State.initIsr_tx_isr :
    (s.initIsr .tx).isr = { s.isr with
      txRptr := 0, txWview := 0, qTxw := List.replicate (s.cfg.stages - 1) 0 } := rfl
@[simp] theorem State.initIsr_tx_ser : (s.initIsr .tx).ser = s.ser := rfl
@[simp] theorem State.initIsr_tx_host : (s.initIsr .tx).host = s.host := rfl
@[simp] theorem State.initIsr_tx_ghost : (s.initIsr .tx).ghost = s.ghost := rfl
@[simp] theorem State.initIsr_tx_sched : (s.initIsr .tx).sched = s.sched := rfl
@[simp] theorem State.initIsr_tx_tick : (s.initIsr .tx).tick = s.tick := rfl
@[simp] theorem State.initIsr_tx_stream : (s.initIsr .tx).stream = s.stream := rfl

@[simp] theorem State.initIsr_rx_cfg : (s.initIsr .rx).cfg = s.cfg := rfl
@[simp] theorem State.initIsr_rx_fg : (s.initIsr .rx).fg = s.fg := rfl
@[simp] theorem State.initIsr_rx_isr :
    (s.initIsr .rx).isr = { s.isr with
      rxWptr := 0, rxRview := 0, qRxr := List.replicate (s.cfg.stages - 1) 0 } := rfl
@[simp] theorem State.initIsr_rx_ser : (s.initIsr .rx).ser = s.ser := rfl
@[simp] theorem State.initIsr_rx_host : (s.initIsr .rx).host = s.host := rfl
@[simp] theorem State.initIsr_rx_ghost : (s.initIsr .rx).ghost = s.ghost := rfl
@[simp] theorem State.initIsr_rx_sched : (s.initIsr .rx).sched = s.sched := rfl
@[simp] theorem State.initIsr_rx_tick : (s.initIsr .rx).tick = s.tick := rfl
@[simp] theorem State.initIsr_rx_stream : (s.initIsr .rx).stream = s.stream := rfl

@[simp] theorem State.pushTx_cfg (b : Byte) : (s.pushTx b).cfg = s.cfg := rfl
@[simp] theorem State.pushTx_fg (b : Byte) :
    (s.pushTx b).fg = { s.fg with
      txMem := Mem.write (w := 8) s.fg.txMem (idx s.cfg.nTx s.fg.txWptr) b
      txWptr := ptrInc s.cfg.nTx s.fg.txWptr } := rfl
@[simp] theorem State.pushTx_isr (b : Byte) : (s.pushTx b).isr = s.isr := rfl
@[simp] theorem State.pushTx_ser (b : Byte) : (s.pushTx b).ser = s.ser := rfl
@[simp] theorem State.pushTx_host (b : Byte) : (s.pushTx b).host = s.host := rfl
@[simp] theorem State.pushTx_ghost (b : Byte) : (s.pushTx b).ghost = s.ghost := rfl
@[simp] theorem State.pushTx_sched (b : Byte) : (s.pushTx b).sched = s.sched := rfl
@[simp] theorem State.pushTx_tick (b : Byte) : (s.pushTx b).tick = s.tick := rfl
@[simp] theorem State.pushTx_stream (b : Byte) : (s.pushTx b).stream = s.stream := rfl

@[simp] theorem State.pushRx_cfg (d : Byte) (t : Tag) : (s.pushRx d t).cfg = s.cfg := rfl
@[simp] theorem State.pushRx_fg (d : Byte) (t : Tag) : (s.pushRx d t).fg = s.fg := rfl
@[simp] theorem State.pushRx_isr (d : Byte) (t : Tag) :
    (s.pushRx d t).isr = { s.isr with
      rxMem := Mem.write (w := 8) s.isr.rxMem (idx s.cfg.nRx s.isr.rxWptr) d
      rxTag := Mem.write s.isr.rxTag (idx s.cfg.nRx s.isr.rxWptr) t
      rxWptr := ptrInc s.cfg.nRx s.isr.rxWptr } := rfl
@[simp] theorem State.pushRx_ser (d : Byte) (t : Tag) : (s.pushRx d t).ser = s.ser := rfl
@[simp] theorem State.pushRx_host (d : Byte) (t : Tag) : (s.pushRx d t).host = s.host := rfl
@[simp] theorem State.pushRx_ghost (d : Byte) (t : Tag) : (s.pushRx d t).ghost = s.ghost := rfl
@[simp] theorem State.pushRx_sched (d : Byte) (t : Tag) : (s.pushRx d t).sched = s.sched := rfl
@[simp] theorem State.pushRx_tick (d : Byte) (t : Tag) : (s.pushRx d t).tick = s.tick := rfl
@[simp] theorem State.pushRx_stream (d : Byte) (t : Tag) : (s.pushRx d t).stream = s.stream := rfl

@[simp] theorem State.answer_cfg (a : RbAnswer) : (s.answer a).cfg = s.cfg := rfl
@[simp] theorem State.answer_fg (a : RbAnswer) : (s.answer a).fg = s.fg := rfl
@[simp] theorem State.answer_isr (a : RbAnswer) : (s.answer a).isr = s.isr := rfl
@[simp] theorem State.answer_ser (a : RbAnswer) : (s.answer a).ser = s.ser := rfl
@[simp] theorem State.answer_host (a : RbAnswer) : (s.answer a).host = s.host := rfl
@[simp] theorem State.answer_ghost (a : RbAnswer) :
    (s.answer a).ghost = { s.ghost with rbAnswer := a } := rfl
@[simp] theorem State.answer_sched (a : RbAnswer) : (s.answer a).sched = s.sched := rfl
@[simp] theorem State.answer_tick (a : RbAnswer) : (s.answer a).tick = s.tick := rfl
@[simp] theorem State.answer_stream (a : RbAnswer) : (s.answer a).stream = s.stream := rfl

@[simp] theorem State.takeRx_cfg : (s.takeRx).cfg = s.cfg := rfl
@[simp] theorem State.takeRx_fg : (s.takeRx).fg = s.fg := rfl
@[simp] theorem State.takeRx_isr : (s.takeRx).isr = s.isr := rfl
@[simp] theorem State.takeRx_ser : (s.takeRx).ser = { s.ser with rxc := false } := rfl
@[simp] theorem State.takeRx_host : (s.takeRx).host = s.host := rfl
@[simp] theorem State.takeRx_ghost : (s.takeRx).ghost = s.ghost := rfl
@[simp] theorem State.takeRx_sched : (s.takeRx).sched = s.sched := rfl
@[simp] theorem State.takeRx_tick : (s.takeRx).tick = s.tick := rfl
@[simp] theorem State.takeRx_stream : (s.takeRx).stream = s.stream := rfl

@[simp] theorem State.handOver_cfg (b : Byte) : (s.handOver b).cfg = s.cfg := rfl
@[simp] theorem State.handOver_fg (b : Byte) : (s.handOver b).fg = s.fg := rfl
@[simp] theorem State.handOver_isr (b : Byte) : (s.handOver b).isr = s.isr := rfl
@[simp] theorem State.handOver_ser (b : Byte) :
    (s.handOver b).ser = { s.ser with dre := false } := rfl
@[simp] theorem State.handOver_host (b : Byte) : (s.handOver b).host = s.host := rfl
@[simp] theorem State.handOver_ghost (b : Byte) :
    (s.handOver b).ghost = { s.ghost with txSink := s.ghost.txSink ++ [b] } := rfl
@[simp] theorem State.handOver_sched (b : Byte) : (s.handOver b).sched = s.sched := rfl
@[simp] theorem State.handOver_tick (b : Byte) : (s.handOver b).tick = s.tick := rfl
@[simp] theorem State.handOver_stream (b : Byte) : (s.handOver b).stream = s.stream := rfl

@[simp] theorem State.enableIsr_cfg : (s.enableIsr).cfg = s.cfg := rfl
@[simp] theorem State.enableIsr_fg : (s.enableIsr).fg = s.fg := rfl
@[simp] theorem State.enableIsr_isr :
    (s.enableIsr).isr = { s.isr with
      txRptr := 0, txWview := 0, qTxw := List.replicate (s.cfg.stages - 1) 0
      rxWptr := 0, rxRview := 0, qRxr := List.replicate (s.cfg.stages - 1) 0
      lastRxError := 0, rxDropPending := false, baud := s.fg.baudHold
      rxen := true, txen := true, rxcie := true, dreie := false
      enAck := true, phase := .enabled } := rfl
@[simp] theorem State.enableIsr_ser : (s.enableIsr).ser = s.ser := rfl
@[simp] theorem State.enableIsr_host : (s.enableIsr).host = s.host := rfl
@[simp] theorem State.enableIsr_ghost : (s.enableIsr).ghost = s.ghost := rfl
@[simp] theorem State.enableIsr_sched : (s.enableIsr).sched = s.sched := rfl
@[simp] theorem State.enableIsr_tick : (s.enableIsr).tick = s.tick := rfl
@[simp] theorem State.enableIsr_stream : (s.enableIsr).stream = s.stream := rfl

@[simp] theorem State.noteClose_cfg : (s.noteClose).cfg = s.cfg := rfl
@[simp] theorem State.noteClose_fg : (s.noteClose).fg = s.fg := rfl
@[simp] theorem State.noteClose_isr : (s.noteClose).isr = { s.isr with phase := .waitDre } := rfl
@[simp] theorem State.noteClose_ser : (s.noteClose).ser = s.ser := rfl
@[simp] theorem State.noteClose_host : (s.noteClose).host = s.host := rfl
@[simp] theorem State.noteClose_ghost : (s.noteClose).ghost = s.ghost := rfl
@[simp] theorem State.noteClose_sched : (s.noteClose).sched = s.sched := rfl
@[simp] theorem State.noteClose_tick : (s.noteClose).tick = s.tick := rfl
@[simp] theorem State.noteClose_stream : (s.noteClose).stream = s.stream := rfl

@[simp] theorem State.startSettle_cfg : (s.startSettle).cfg = s.cfg := rfl
@[simp] theorem State.startSettle_fg : (s.startSettle).fg = s.fg := rfl
@[simp] theorem State.startSettle_isr :
    (s.startSettle).isr = { s.isr with settleCnt := s.cfg.tSettle, phase := .settle } := rfl
@[simp] theorem State.startSettle_ser : (s.startSettle).ser = s.ser := rfl
@[simp] theorem State.startSettle_host : (s.startSettle).host = s.host := rfl
@[simp] theorem State.startSettle_ghost : (s.startSettle).ghost = s.ghost := rfl
@[simp] theorem State.startSettle_sched : (s.startSettle).sched = s.sched := rfl
@[simp] theorem State.startSettle_tick : (s.startSettle).tick = s.tick := rfl
@[simp] theorem State.startSettle_stream : (s.startSettle).stream = s.stream := rfl

@[simp] theorem State.settleTick_cfg : (s.settleTick).cfg = s.cfg := rfl
@[simp] theorem State.settleTick_fg : (s.settleTick).fg = s.fg := rfl
@[simp] theorem State.settleTick_isr :
    (s.settleTick).isr = { s.isr with settleCnt := s.isr.settleCnt - 1 } := rfl
@[simp] theorem State.settleTick_ser : (s.settleTick).ser = s.ser := rfl
@[simp] theorem State.settleTick_host : (s.settleTick).host = s.host := rfl
@[simp] theorem State.settleTick_ghost : (s.settleTick).ghost = s.ghost := rfl
@[simp] theorem State.settleTick_sched : (s.settleTick).sched = s.sched := rfl
@[simp] theorem State.settleTick_tick : (s.settleTick).tick = s.tick := rfl
@[simp] theorem State.settleTick_stream : (s.settleTick).stream = s.stream := rfl

@[simp] theorem State.disableIsr_cfg : (s.disableIsr).cfg = s.cfg := rfl
@[simp] theorem State.disableIsr_fg : (s.disableIsr).fg = s.fg := rfl
@[simp] theorem State.disableIsr_isr :
    (s.disableIsr).isr = { s.isr with
      rxen := false, txen := false, rxcie := false, dreie := false
      enAck := false, phase := .disabled } := rfl
@[simp] theorem State.disableIsr_ser : (s.disableIsr).ser = { s.ser with rxc := false } := rfl
@[simp] theorem State.disableIsr_host : (s.disableIsr).host = s.host := rfl
@[simp] theorem State.disableIsr_ghost : (s.disableIsr).ghost = s.ghost := rfl
@[simp] theorem State.disableIsr_sched : (s.disableIsr).sched = s.sched := rfl
@[simp] theorem State.disableIsr_tick : (s.disableIsr).tick = s.tick := rfl
@[simp] theorem State.disableIsr_stream : (s.disableIsr).stream = s.stream := rfl

@[simp] theorem State.hardReset_cfg : (s.hardReset).cfg = s.cfg := rfl
@[simp] theorem State.hardReset_fg :
    (s.hardReset).fg = { FgRegs.reset s.cfg with txMem := s.fg.txMem } := rfl
@[simp] theorem State.hardReset_isr :
    (s.hardReset).isr = { IsrRegs.reset s.cfg with rxMem := s.isr.rxMem, rxTag := s.isr.rxTag } := rfl
@[simp] theorem State.hardReset_ser :
    (s.hardReset).ser = { s.ser with rxc := false, dre := true } := rfl
@[simp] theorem State.hardReset_host : (s.hardReset).host = s.host := rfl
@[simp] theorem State.hardReset_ghost : (s.hardReset).ghost = Ghost.reset := rfl
@[simp] theorem State.hardReset_sched : (s.hardReset).sched = s.sched := rfl
@[simp] theorem State.hardReset_tick : (s.hardReset).tick = s.tick := rfl
@[simp] theorem State.hardReset_stream : (s.hardReset).stream = s.stream := rfl

@[simp] theorem State.openStart_cfg (b : BitVec 16) : (s.openStart b).cfg = s.cfg := rfl
@[simp] theorem State.openStart_fg (b : BitVec 16) :
    (s.openStart b).fg = { s.fg with
      txWptr := 0, rxRptr := 0, baudHold := b, portcfg := true, phase := .openInit
      rspValid := false } := rfl
@[simp] theorem State.openStart_isr (b : BitVec 16) : (s.openStart b).isr = s.isr := rfl
@[simp] theorem State.openStart_ser (b : BitVec 16) : (s.openStart b).ser = s.ser := rfl
@[simp] theorem State.openStart_host (b : BitVec 16) : (s.openStart b).host = s.host := rfl
@[simp] theorem State.openStart_ghost (b : BitVec 16) :
    (s.openStart b).ghost = { s.ghost with portcfgCount := s.ghost.portcfgCount + 1 } := rfl
@[simp] theorem State.openStart_sched (b : BitVec 16) : (s.openStart b).sched = s.sched := rfl
@[simp] theorem State.openStart_tick (b : BitVec 16) : (s.openStart b).tick = s.tick := rfl
@[simp] theorem State.openStart_stream (b : BitVec 16) : (s.openStart b).stream = s.stream := rfl

@[simp] theorem State.openRequest_cfg : (s.openRequest).cfg = s.cfg := rfl
@[simp] theorem State.openRequest_fg :
    (s.openRequest).fg = { s.fg with
      portcfg := false, enReq := true, phase := .openWait, rspValid := false } := rfl
@[simp] theorem State.openRequest_isr : (s.openRequest).isr = s.isr := rfl
@[simp] theorem State.openRequest_ser : (s.openRequest).ser = s.ser := rfl
@[simp] theorem State.openRequest_host : (s.openRequest).host = s.host := rfl
@[simp] theorem State.openRequest_ghost : (s.openRequest).ghost = s.ghost := rfl
@[simp] theorem State.openRequest_sched : (s.openRequest).sched = s.sched := rfl
@[simp] theorem State.openRequest_tick : (s.openRequest).tick = s.tick := rfl
@[simp] theorem State.openRequest_stream : (s.openRequest).stream = s.stream := rfl

@[simp] theorem State.openFinish_cfg : (s.openFinish).cfg = s.cfg := rfl
@[simp] theorem State.openFinish_fg :
    (s.openFinish).fg = { s.fg with
      txRview := 0, qTxr := List.replicate (s.cfg.stages - 1) 0
      rxWview := 0, qRxw := List.replicate (s.cfg.stages - 1) 0
      rxErrView := 0, lineOpen := true, rsp := rspDone, rspValid := true, phase := .idle } := rfl
@[simp] theorem State.openFinish_isr : (s.openFinish).isr = s.isr := rfl
@[simp] theorem State.openFinish_ser : (s.openFinish).ser = s.ser := rfl
@[simp] theorem State.openFinish_host : (s.openFinish).host = s.host := rfl
@[simp] theorem State.openFinish_ghost : (s.openFinish).ghost = s.ghost := rfl
@[simp] theorem State.openFinish_sched : (s.openFinish).sched = s.sched := rfl
@[simp] theorem State.openFinish_tick : (s.openFinish).tick = s.tick := rfl
@[simp] theorem State.openFinish_stream : (s.openFinish).stream = s.stream := rfl

@[simp] theorem State.closeStart_cfg : (s.closeStart).cfg = s.cfg := rfl
@[simp] theorem State.closeStart_fg :
    (s.closeStart).fg = { s.fg with phase := .closeDrain, rspValid := false } := rfl
@[simp] theorem State.closeStart_isr : (s.closeStart).isr = s.isr := rfl
@[simp] theorem State.closeStart_ser : (s.closeStart).ser = s.ser := rfl
@[simp] theorem State.closeStart_host : (s.closeStart).host = s.host := rfl
@[simp] theorem State.closeStart_ghost : (s.closeStart).ghost = s.ghost := rfl
@[simp] theorem State.closeStart_sched : (s.closeStart).sched = s.sched := rfl
@[simp] theorem State.closeStart_tick : (s.closeStart).tick = s.tick := rfl
@[simp] theorem State.closeStart_stream : (s.closeStart).stream = s.stream := rfl

@[simp] theorem State.closeRequest_cfg : (s.closeRequest).cfg = s.cfg := rfl
@[simp] theorem State.closeRequest_fg :
    (s.closeRequest).fg = { s.fg with
      enReq := false, phase := .closeWait, rspValid := false } := rfl
@[simp] theorem State.closeRequest_isr : (s.closeRequest).isr = s.isr := rfl
@[simp] theorem State.closeRequest_ser : (s.closeRequest).ser = s.ser := rfl
@[simp] theorem State.closeRequest_host : (s.closeRequest).host = s.host := rfl
@[simp] theorem State.closeRequest_ghost : (s.closeRequest).ghost = s.ghost := rfl
@[simp] theorem State.closeRequest_sched : (s.closeRequest).sched = s.sched := rfl
@[simp] theorem State.closeRequest_tick : (s.closeRequest).tick = s.tick := rfl
@[simp] theorem State.closeRequest_stream : (s.closeRequest).stream = s.stream := rfl

@[simp] theorem State.closeFinish_cfg : (s.closeFinish).cfg = s.cfg := rfl
@[simp] theorem State.closeFinish_fg :
    (s.closeFinish).fg = { s.fg with
      lineOpen := false, rsp := rspDone, rspValid := true, phase := .idle } := rfl
@[simp] theorem State.closeFinish_isr : (s.closeFinish).isr = s.isr := rfl
@[simp] theorem State.closeFinish_ser : (s.closeFinish).ser = s.ser := rfl
@[simp] theorem State.closeFinish_host : (s.closeFinish).host = s.host := rfl
@[simp] theorem State.closeFinish_ghost : (s.closeFinish).ghost = s.ghost := rfl
@[simp] theorem State.closeFinish_sched : (s.closeFinish).sched = s.sched := rfl
@[simp] theorem State.closeFinish_tick : (s.closeFinish).tick = s.tick := rfl
@[simp] theorem State.closeFinish_stream : (s.closeFinish).stream = s.stream := rfl

@[simp] theorem State.sendHold_cfg (b : Byte) : (s.sendHold b).cfg = s.cfg := rfl
@[simp] theorem State.sendHold_fg (b : Byte) :
    (s.sendHold b).fg = { s.fg with
      cmdHold := b, phase := .sendWait, rspValid := false } := rfl
@[simp] theorem State.sendHold_isr (b : Byte) : (s.sendHold b).isr = s.isr := rfl
@[simp] theorem State.sendHold_ser (b : Byte) : (s.sendHold b).ser = s.ser := rfl
@[simp] theorem State.sendHold_host (b : Byte) : (s.sendHold b).host = s.host := rfl
@[simp] theorem State.sendHold_ghost (b : Byte) : (s.sendHold b).ghost = s.ghost := rfl
@[simp] theorem State.sendHold_sched (b : Byte) : (s.sendHold b).sched = s.sched := rfl
@[simp] theorem State.sendHold_tick (b : Byte) : (s.sendHold b).tick = s.tick := rfl
@[simp] theorem State.sendHold_stream (b : Byte) : (s.sendHold b).stream = s.stream := rfl

@[simp] theorem State.storeRx_cfg : (s.storeRx).cfg = s.cfg := rfl
@[simp] theorem State.storeRx_fg : (s.storeRx).fg = s.fg := rfl
@[simp] theorem State.storeRx_isr :
    (s.storeRx).isr = { s.isr with
      rxMem := Mem.write (w := 8) s.isr.rxMem (idx s.cfg.nRx s.isr.rxWptr) s.ser.rxData
      rxTag := Mem.write s.isr.rxTag (idx s.cfg.nRx s.isr.rxWptr)
        (rxTagOf s.isr.rxDropPending s.ser.rxErr)
      rxWptr := ptrInc s.cfg.nRx s.isr.rxWptr, rxDropPending := false
      lastRxError := (rxTagOf s.isr.rxDropPending s.ser.rxErr).setWidth 8 } := rfl
@[simp] theorem State.storeRx_ser : (s.storeRx).ser = s.ser := rfl
@[simp] theorem State.storeRx_host : (s.storeRx).host = s.host := rfl
@[simp] theorem State.storeRx_ghost : (s.storeRx).ghost = s.ghost := rfl
@[simp] theorem State.storeRx_sched : (s.storeRx).sched = s.sched := rfl
@[simp] theorem State.storeRx_tick : (s.storeRx).tick = s.tick := rfl
@[simp] theorem State.storeRx_stream : (s.storeRx).stream = s.stream := rfl

@[simp] theorem State.dropRx_cfg : (s.dropRx).cfg = s.cfg := rfl
@[simp] theorem State.dropRx_fg : (s.dropRx).fg = s.fg := rfl
@[simp] theorem State.dropRx_isr :
    (s.dropRx).isr = { s.isr with
      rxDropPending := true, lastRxError := (rxTagOf true s.ser.rxErr).setWidth 8 } := rfl
@[simp] theorem State.dropRx_ser : (s.dropRx).ser = s.ser := rfl
@[simp] theorem State.dropRx_host : (s.dropRx).host = s.host := rfl
@[simp] theorem State.dropRx_ghost : (s.dropRx).ghost = s.ghost := rfl
@[simp] theorem State.dropRx_sched : (s.dropRx).sched = s.sched := rfl
@[simp] theorem State.dropRx_tick : (s.dropRx).tick = s.tick := rfl
@[simp] theorem State.dropRx_stream : (s.dropRx).stream = s.stream := rfl

@[simp] theorem State.accept_cfg : (s.accept).cfg = s.cfg := rfl
@[simp] theorem State.accept_fg : (s.accept).fg = s.fg := rfl
@[simp] theorem State.accept_isr : (s.accept).isr = s.isr := rfl
@[simp] theorem State.accept_ser : (s.accept).ser = s.ser := rfl
@[simp] theorem State.accept_host : (s.accept).host = { s.host with cmdValid := false } := rfl
@[simp] theorem State.accept_ghost : (s.accept).ghost = s.ghost := rfl
@[simp] theorem State.accept_sched : (s.accept).sched = s.sched := rfl
@[simp] theorem State.accept_tick : (s.accept).tick = s.tick := rfl
@[simp] theorem State.accept_stream : (s.accept).stream = s.stream := rfl

end Sys2Proof.Machine
end

