-- ==== Sys2Proof/Laws/Ops.lean ====
section
/-! SUPPORT. What each shared operation and each meaning can do: if it answers a next state, one of the
listed cases holds. Later proofs cite these instead of unfolding a meaning. -/

namespace Sys2Proof.Machine

variable {s t : State}

theorem next_inj {a b : State} :
    (Host.Outcome.next a : Host.Outcome State Fault Refusal) = .next b ↔ a = b := by
  constructor
  · intro h; injection h
  · rintro rfl; rfl

theorem andThen_next {o : Host.Outcome State Fault Refusal}
    {k : State → Host.Outcome State Fault Refusal} :
    andThen o k = .next t ↔ ∃ a, o = .next a ∧ k a = .next t := by
  cases o <;> simp [andThen]

theorem popTx_ok {b : Byte} :
    s.popTx = .ok (b, t) ↔
      Mem.read (w := 8) s.fg.txMem (idx s.cfg.nTx s.isr.txRptr) = some b ∧
      t = { s with isr := { s.isr with txRptr := ptrInc s.cfg.nTx s.isr.txRptr } } := by
  unfold State.popTx
  split
  · next h => rw [h]; simp; exact fun _ => eq_comm
  · next h => rw [h]; simp

theorem popRx_ok {b : Byte} {g : Tag} :
    s.popRx = .ok (b, g, t) ↔
      Mem.read (w := 8) s.isr.rxMem (idx s.cfg.nRx s.fg.rxRptr) = some b ∧
      Mem.read s.isr.rxTag (idx s.cfg.nRx s.fg.rxRptr) = some g ∧
      t = { s with fg := { s.fg with rxRptr := ptrInc s.cfg.nRx s.fg.rxRptr } } := by
  unfold State.popRx
  split
  · next h => rw [h]; simp
  · next h =>
    rw [h]
    split
    · next h' => rw [h']; simp
    · next h' => rw [h']; simp; exact fun _ _ => eq_comm

theorem newestTag_ok {x : Ptr} {g : Tag} :
    s.newestTag x = .ok g ↔ Mem.read s.isr.rxTag (idx s.cfg.nRx (ptrPred s.cfg.nRx x)) = some g := by
  unfold State.newestTag
  split
  · next h => rw [h]; simp
  · next h => rw [h]; simp

theorem atOnce_next {v : RspWord} (h : s.atOnce v = .next t) :
    (s.fg.phase = .idle ∧ t = s.respond v) ∨ (s.fg.phase ≠ .idle ∧ t = s) := by
  unfold State.atOnce State.cmdReady at h
  split at h
  · next hi => exact .inl ⟨by simpa using hi, (next_inj.1 h).symm⟩
  · next hi => exact .inr ⟨by simpa using hi, (next_inj.1 h).symm⟩

theorem execOpenLine_next {baud : BitVec 16} (h : execOpenLine baud s = .next t) :
    (s.fg.phase = .idle ∧ s.fg.lineOpen = true ∧ t = s.respond rspAlreadyOpen) ∨
    (s.fg.phase = .idle ∧ s.fg.lineOpen = false ∧ t = s.openStart baud) ∨
    (s.fg.phase = .openInit ∧ t = s.openRequest) ∨
    (s.fg.phase = .openWait ∧ s.fg.enAckView = true ∧ t = s.openFinish) ∨
    (s.fg.phase = .openWait ∧ s.fg.enAckView = false ∧ t = s.fgHeld) ∨
    (s.fg.phase ≠ .idle ∧ s.fg.phase ≠ .openInit ∧ s.fg.phase ≠ .openWait ∧ t = s) := by
  unfold execOpenLine at h
  cases hp : s.fg.phase <;> simp only [hp] at h ⊢ <;>
    cases ho : s.fg.lineOpen <;> cases ha : s.fg.enAckView <;>
    simp [ho, ha] at h ⊢ <;> exact h.symm

theorem execCloseLine_next (h : execCloseLine s = .next t) :
    (s.fg.phase = .idle ∧ s.fg.lineOpen = false ∧ t = s.respond rspNotOpen) ∨
    (s.fg.phase = .idle ∧ s.fg.lineOpen = true ∧ t = s.closeStart) ∨
    (s.fg.phase = .closeDrain ∧ s.txEmptyFg = true ∧ t = s.closeRequest) ∨
    (s.fg.phase = .closeDrain ∧ s.txEmptyFg = false ∧ t = s.fgHeld) ∨
    (s.fg.phase = .closeWait ∧ s.fg.enAckView = false ∧ t = s.closeFinish) ∨
    (s.fg.phase = .closeWait ∧ s.fg.enAckView = true ∧ t = s.fgHeld) ∨
    (s.fg.phase ≠ .idle ∧ s.fg.phase ≠ .closeDrain ∧ s.fg.phase ≠ .closeWait ∧ t = s) := by
  unfold execCloseLine at h
  cases hp : s.fg.phase <;> simp only [hp] at h ⊢ <;>
    cases ho : s.fg.lineOpen <;> cases ha : s.fg.enAckView <;> cases he : s.txEmptyFg <;>
    simp [ho, ha, he] at h ⊢ <;> exact h.symm

theorem execSend_next {b : Byte} (h : execSend b s = .next t) :
    (s.fg.phase = .idle ∧ s.fg.lineOpen = false ∧ t = s.respond rspNotOpen) ∨
    (s.fg.phase = .idle ∧ s.fg.lineOpen = true ∧ s.txFullFg = true ∧ t = s.sendHold b) ∨
    (s.fg.phase = .idle ∧ s.fg.lineOpen = true ∧ s.txFullFg = false ∧
      t = (s.pushTx b).respond rspDone) ∨
    (s.fg.phase = .sendWait ∧ s.txFullFg = true ∧ t = s.fgHeld) ∨
    (s.fg.phase = .sendWait ∧ s.txFullFg = false ∧
      t = (s.pushTx s.fg.cmdHold).respond rspDone) ∨
    (s.fg.phase ≠ .idle ∧ s.fg.phase ≠ .sendWait ∧ t = s) := by
  unfold execSend at h
  cases hp : s.fg.phase <;> simp only [hp] at h ⊢ <;>
    cases ho : s.fg.lineOpen <;> cases he : s.txFullFg <;>
    simp [ho, he] at h ⊢ <;> exact h.symm

theorem execRead_next (h : execRead s = .next t) :
    (s.fg.phase ≠ .idle ∧ t = s) ∨
    (s.fg.phase = .idle ∧ s.fg.lineOpen = false ∧ t = s.respond (rspNotOpen ||| rspNoData)) ∨
    (s.fg.phase = .idle ∧ s.fg.lineOpen = true ∧ s.rxEmptyFg = true ∧
      t = s.respond (rspEmpty s.fg.rxErrView)) ∨
    (s.fg.phase = .idle ∧ s.fg.lineOpen = true ∧ s.rxEmptyFg = false ∧
      ∃ b g, Mem.read (w := 8) s.isr.rxMem (idx s.cfg.nRx s.fg.rxRptr) = some b ∧
        Mem.read s.isr.rxTag (idx s.cfg.nRx s.fg.rxRptr) = some g ∧
        t = { s with fg := { s.fg with
          rxRptr := ptrInc s.cfg.nRx s.fg.rxRptr
          rsp := rspData (readFlags s.cfg.errTagMode g s.fg.rxErrView) b
          rspValid := true, phase := .idle } }) := by
  unfold execRead at h
  split at h
  · next hi => exact .inl ⟨by simpa [State.cmdReady] using hi, (next_inj.1 h).symm⟩
  · next hi =>
    have hi' : s.fg.phase = .idle := by simpa [State.cmdReady] using hi
    split at h
    · next ho => exact .inr (.inl ⟨hi', by simpa using ho, (next_inj.1 h).symm⟩)
    · next ho =>
      split at h
      · next he => exact .inr (.inr (.inl ⟨hi', by simpa using ho, he, (next_inj.1 h).symm⟩))
      · next he =>
        split at h
        · cases h
        · next b g a hpop =>
          obtain ⟨h1, h2, rfl⟩ := popRx_ok.1 hpop
          exact .inr (.inr (.inr ⟨hi', by simpa using ho, by simpa using he, b, g, h1, h2,
            (next_inj.1 h).symm⟩))

theorem execIsrRxc_next (h : execIsrRxc s = .next t) :
    (s.irqRx = false ∧ t = s) ∨ (s.irqRx = true ∧ s.rxFullIsr = true ∧ t = s.dropRx.takeRx) ∨
    (s.irqRx = true ∧ s.rxFullIsr = false ∧ t = s.storeRx.takeRx) := by
  unfold execIsrRxc at h
  cases hi : s.irqRx <;> cases hf : s.rxFullIsr <;> simp [hi, hf] at h ⊢ <;>
    exact h.symm

theorem execIsrDre_next (h : execIsrDre s = .next t) :
    (s.irqTx = false ∧ t = s) ∨
    (s.irqTx = true ∧ s.txEmptyIsr = true ∧
      t = { s with isr := { s.isr with dreie := false } }) ∨
    (s.irqTx = true ∧ s.txEmptyIsr = false ∧
      ∃ b, Mem.read (w := 8) s.fg.txMem (idx s.cfg.nTx s.isr.txRptr) = some b ∧
        t = { s with
          isr := { s.isr with txRptr := ptrInc s.cfg.nTx s.isr.txRptr }
          ser := { s.ser with dre := false }
          ghost := { s.ghost with txSink := s.ghost.txSink ++ [b] } }) := by
  unfold execIsrDre at h
  split at h
  · next hi => exact .inl ⟨by simpa using hi, (next_inj.1 h).symm⟩
  · next hi =>
    split at h
    · next he => exact .inr (.inl ⟨by simpa using hi, he, (next_inj.1 h).symm⟩)
    · next he =>
      split at h
      · cases h
      · next b a hpop =>
        obtain ⟨h1, rfl⟩ := popTx_ok.1 hpop
        exact .inr (.inr ⟨by simpa using hi, by simpa using he, b, h1, (next_inj.1 h).symm⟩)

theorem execCtlEnable_next (h : execCtlEnable s = .next t) :
    (s.isr.phase = .disabled ∧ s.isr.enReqView = true ∧ t = s.enableIsr) ∨
    (¬(s.isr.phase = .disabled ∧ s.isr.enReqView = true) ∧ t = s) := by
  unfold execCtlEnable at h
  split at h
  · next hc => exact .inl ⟨by simp at hc; exact hc.1, by simp at hc; exact hc.2, (next_inj.1 h).symm⟩
  · next hc => exact .inr ⟨by simpa using hc, (next_inj.1 h).symm⟩

theorem execCtlClose1_next (h : execCtlClose1 s = .next t) :
    (s.isr.phase = .enabled ∧ s.isr.enReqView = false ∧ t = s.noteClose) ∨
    (¬(s.isr.phase = .enabled ∧ s.isr.enReqView = false) ∧ t = s) := by
  unfold execCtlClose1 at h
  split at h
  · next hc => exact .inl ⟨by simp at hc; exact hc.1, by simp at hc; exact hc.2, (next_inj.1 h).symm⟩
  · next hc => exact .inr ⟨by simpa using hc, (next_inj.1 h).symm⟩

theorem execCtlClose2_next (h : execCtlClose2 s = .next t) :
    (s.isr.phase = .waitDre ∧ s.ser.dre = true ∧ t = s.startSettle) ∨
    (¬(s.isr.phase = .waitDre ∧ s.ser.dre = true) ∧ t = s) := by
  unfold execCtlClose2 at h
  split at h
  · next hc => exact .inl ⟨by simp at hc; exact hc.1, by simp at hc; exact hc.2, (next_inj.1 h).symm⟩
  · next hc => exact .inr ⟨by simpa using hc, (next_inj.1 h).symm⟩

theorem execCtlClose3_next (h : execCtlClose3 s = .next t) :
    (s.isr.phase ≠ .settle ∧ t = s) ∨
    (s.isr.phase = .settle ∧ s.cfg.level = .register ∧ s.isr.settleCnt ≠ 0 ∧ t = s.settleTick) ∨
    (s.isr.phase = .settle ∧ (s.cfg.level = .agent ∨ s.isr.settleCnt = 0) ∧ t = s.disableIsr) := by
  unfold execCtlClose3 at h
  split at h
  · next hp => exact .inl ⟨hp, (next_inj.1 h).symm⟩
  · next hp =>
    have hp' : s.isr.phase = .settle := not_not.1 hp
    split at h
    · next hl => exact .inr (.inr ⟨hp', .inl hl, (next_inj.1 h).symm⟩)
    · next hl =>
      split at h
      · next hc => exact .inr (.inl ⟨hp', hl, hc, (next_inj.1 h).symm⟩)
      · next hc => exact .inr (.inr ⟨hp', .inr (not_not.1 hc), (next_inj.1 h).symm⟩)

/-- What it takes for a view at `v` to advance to `x` with its original at `p`. -/
theorem mayAdvance_iff {n : Nat} {v x p : Ptr} :
    mayAdvance n v x p = true ↔
      x.toNat < 2 ^ (n + 1) ∧ v ≠ p ∧ x ≠ v ∧ occ n x v ≤ occ n p v := by
  simp [mayAdvance, isPtr, between, and_assoc]

theorem execSyncTxw_next {x : Ptr} (h : execSyncTxw x s = .next t) :
    (s.isr.phase ≠ .disabled ∧ mayAdvance s.cfg.nTx s.isr.txWview x s.fg.txWptr = true ∧
      t = { s with isr := { s.isr with txWview := x, dreie := true } }) ∨
    (¬(s.isr.phase ≠ .disabled ∧ mayAdvance s.cfg.nTx s.isr.txWview x s.fg.txWptr = true) ∧
      t = s) := by
  unfold execSyncTxw State.isrCrossingsOn at h
  split at h
  · next hc => simp at hc; exact .inl ⟨hc.1, hc.2, (next_inj.1 h).symm⟩
  · next hc => exact .inr ⟨by simpa using hc, (next_inj.1 h).symm⟩

theorem execSyncRxr_next {x : Ptr} (h : execSyncRxr x s = .next t) :
    (s.isr.phase ≠ .disabled ∧ mayAdvance s.cfg.nRx s.isr.rxRview x s.fg.rxRptr = true ∧
      t = { s with isr := { s.isr with rxRview := x } }) ∨
    (¬(s.isr.phase ≠ .disabled ∧ mayAdvance s.cfg.nRx s.isr.rxRview x s.fg.rxRptr = true) ∧
      t = s) := by
  unfold execSyncRxr State.isrCrossingsOn at h
  split at h
  · next hc => simp at hc; exact .inl ⟨hc.1, hc.2, (next_inj.1 h).symm⟩
  · next hc => exact .inr ⟨by simpa using hc, (next_inj.1 h).symm⟩

theorem execSyncTxr_next {x : Ptr} (h : execSyncTxr x s = .next t) :
    (s.fgCrossingsOn = true ∧ mayAdvance s.cfg.nTx s.fg.txRview x s.isr.txRptr = true ∧
      t = { s with fg := { s.fg with txRview := x } }) ∨
    (¬(s.fgCrossingsOn = true ∧ mayAdvance s.cfg.nTx s.fg.txRview x s.isr.txRptr = true) ∧
      t = s) := by
  unfold execSyncTxr at h
  split at h
  · next hc =>
    have hc' := Bool.and_eq_true_iff.1 hc
    exact .inl ⟨hc'.1, hc'.2, (next_inj.1 h).symm⟩
  · next hc =>
    exact .inr ⟨fun hh => hc (Bool.and_eq_true_iff.2 hh), (next_inj.1 h).symm⟩

theorem execSyncRxw_next {x : Ptr} (h : execSyncRxw x s = .next t) :
    (s.fgCrossingsOn = true ∧ mayAdvance s.cfg.nRx s.fg.rxWview x s.isr.rxWptr = true ∧
      ∃ g, Mem.read s.isr.rxTag (idx s.cfg.nRx (ptrPred s.cfg.nRx x)) = some g ∧
      t = { s with fg := { s.fg with rxWview := x, rxErrView := g.setWidth 8 } }) ∨
    (¬(s.fgCrossingsOn = true ∧ mayAdvance s.cfg.nRx s.fg.rxWview x s.isr.rxWptr = true) ∧
      t = s) := by
  unfold execSyncRxw at h
  split at h
  · next hc =>
    have hc' := Bool.and_eq_true_iff.1 hc
    split at h
    · cases h
    · next g hg => exact .inl ⟨hc'.1, hc'.2, g, newestTag_ok.1 hg, (next_inj.1 h).symm⟩
  · next hc =>
    exact .inr ⟨fun hh => hc (Bool.and_eq_true_iff.2 hh), (next_inj.1 h).symm⟩

theorem execEnvRxArrive_next {d : Byte} {e : BitVec 3} (h : execEnvRxArrive d e s = .next t) :
    (s.isr.rxen = true ∧ s.ser.rxc = false ∧
      t = { s with
        ser := { s.ser with rxc := true, rxData := d, rxErr := e }
        ghost := { s.ghost with rxSource := s.ghost.rxSource ++ [(d, e)] } }) ∨
    (¬(s.isr.rxen = true ∧ s.ser.rxc = false) ∧ t = s) := by
  unfold execEnvRxArrive at h
  split at h
  · next hc => simp at hc; exact .inl ⟨hc.1, hc.2, (next_inj.1 h).symm⟩
  · next hc => exact .inr ⟨by simpa using hc, (next_inj.1 h).symm⟩

theorem execEnvTxReady_next (h : execEnvTxReady s = .next t) :
    (s.ser.dre = false ∧ s.isr.txen = true ∧ t = { s with ser := { s.ser with dre := true } }) ∨
    (¬(s.ser.dre = false ∧ s.isr.txen = true) ∧ t = s) := by
  unfold execEnvTxReady at h
  split at h
  · next hc => simp at hc; exact .inl ⟨hc.1, hc.2, (next_inj.1 h).symm⟩
  · next hc => exact .inr ⟨by simpa using hc, (next_inj.1 h).symm⟩

theorem execRbPush_next {b : Buf} {d : Byte} {g : Tag} (h : execRbPush b d g s = .next t) :
    (s.isFull b (producer b) = true ∧ t = s) ∨
    (s.isFull b (producer b) = false ∧
      ((b = .tx ∧ t = s.pushTx d) ∨ (b = .rx ∧ t = s.pushRx d g))) := by
  unfold execRbPush at h
  cases b <;> simp only at h ⊢ <;> split at h <;> simp_all

theorem execRbPop_next {b : Buf} (h : execRbPop b s = .next t) :
    (s.isEmpty b (consumer b) = true ∧ t = s) ∨
    (s.isEmpty b (consumer b) = false ∧
      ((b = .tx ∧ ∃ d a, s.popTx = .ok (d, a) ∧ t = a.answer (.entry d none)) ∨
       (b = .rx ∧ ∃ d g a, s.popRx = .ok (d, g, a) ∧ t = a.answer (.entry d (some g))))) := by
  unfold execRbPop at h
  split at h
  · next he => exact .inl ⟨he, (next_inj.1 h).symm⟩
  · next he =>
    refine .inr ⟨by simpa using he, ?_⟩
    cases b
    · simp only at h
      split at h
      · cases h
      · next d a hp => exact .inl ⟨rfl, d, a, hp, (next_inj.1 h).symm⟩
    · simp only at h
      split at h
      · cases h
      · next d g a hp => exact .inr ⟨rfl, d, g, a, hp, (next_inj.1 h).symm⟩

/-- HOST writes the host's side alone (44_environment.md R249). -/
theorem hostPresent_cases (w : CmdWord) (s : State) :
    ∃ h : HostSide, hostPresent w s = { s with host := h } := by
  unfold hostPresent
  split
  · split
    · exact ⟨_, rfl⟩
    · exact ⟨_, rfl⟩
  · exact ⟨s.host, rfl⟩

/-- The event taken off the schedule changes the schedule and the draw counter alone. -/
theorem advance_cases (s : State) :
    ∃ l n, s.advance = { s with sched := l, tick := n } := by
  unfold State.advance
  split
  · exact ⟨_, s.tick, rfl⟩
  · next h => exact ⟨s.sched, _, rfl⟩

/-- FG's step is a step of one command on the same registers (41_fg_commands.md R170, R180). -/
theorem fgStep_next (h : fgStep s = .next t) :
    (∃ i, s.inProgress = some i ∧ exec i s = .next t) ∨
    (s.fg.phase = .idle ∧ s.host.cmdValid = true ∧
      exec (decodeCmd s.host.cmd) s.accept = .next t) ∨
    (s.fg.phase = .idle ∧ s.host.cmdValid = false ∧ t = s.fgHeld) := by
  unfold fgStep at h
  split at h
  · next i hi => exact .inl ⟨i, hi, h⟩
  · next hi =>
    have hp : s.fg.phase = .idle := by
      unfold State.inProgress at hi; split at hi <;> simp_all
    split at h
    · next hv => exact .inr (.inl ⟨hp, hv, h⟩)
    · next hv => exact .inr (.inr ⟨hp, by simpa using hv, (next_inj.1 h).symm⟩)

/-- A handler's step is that handler, or nothing where its trigger is false
(30_encoding.md R113). -/
theorem handlerStep_eq (h : Handler) (s : State) :
    handlerStep h s = match h with
      | .rxc => exec .isrRxc s
      | .dre => exec .isrDre s := by
  cases h <;> unfold handlerStep handlerMask State.ev <;>
    cases h1 : s.ser.rxc <;> cases h2 : s.isr.rxcie <;> cases h3 : s.ser.dre <;>
    cases h4 : s.isr.dreie <;>
    simp [decodeEv, BitVec.ofBool, exec, execIsrRxc, execIsrDre, State.irqRx, State.irqTx,
      h1, h2, h3, h4]

/-- An edge neither lengthens nor shortens a chain (43_cdc_sync.md R220). -/
@[simp] theorem chainShift_length {α : Type} (g : α) (q : List α) :
    (chainShift g q).1.length = q.length := by
  unfold chainShift
  split
  · next h => rw [List.getLast?_eq_none_iff.1 h]
  · next h =>
    have : q ≠ [] := fun e => by simp [e] at h
    have := List.length_pos_of_ne_nil this
    simp; omega

/-- On one edge CTL enables, notes the request, starts the delay, counts, disables, or does nothing,
by the state before the edge (42_isr_handlers.md R203 to R207). -/
theorem ctlOnEdge_cases (old s : State) :
    (old.isr.phase = .disabled ∧ old.isr.enReqView = true ∧ ctlOnEdge old s = s.enableIsr) ∨
    (old.isr.phase = .disabled ∧ old.isr.enReqView = false ∧ ctlOnEdge old s = s) ∨
    (old.isr.phase = .enabled ∧ old.isr.enReqView = true ∧ ctlOnEdge old s = s) ∨
    (old.isr.phase = .enabled ∧ old.isr.enReqView = false ∧ ctlOnEdge old s = s.noteClose) ∨
    (old.isr.phase = .waitDre ∧ old.ser.dre = true ∧ ctlOnEdge old s = s.startSettle) ∨
    (old.isr.phase = .waitDre ∧ old.ser.dre = false ∧ ctlOnEdge old s = s) ∨
    (old.isr.phase = .settle ∧ old.isr.settleCnt ≠ 0 ∧ ctlOnEdge old s = s.settleTick) ∨
    (old.isr.phase = .settle ∧ old.isr.settleCnt = 0 ∧ ctlOnEdge old s = s.disableIsr) := by
  unfold ctlOnEdge
  cases hp : old.isr.phase <;> simp only
  · cases hv : old.isr.enReqView <;> simp
  · cases hv : old.isr.enReqView <;> simp
  · cases hv : old.ser.dre <;> simp
  · by_cases hv : old.isr.settleCnt = 0#16 <;> simp [hv]

/-- What a `clk_isr` edge is made of (42_isr_handlers.md R207). -/
theorem isrEdge_next {g : IsrSample} (h : isrEdge g s = .next t) :
    ∃ a b, exec .isrRxc s = .next a ∧ exec .isrDre a = .next b ∧
      t = ctlOnEdge s (isrChains g s b) := by
  obtain ⟨a, ha, h⟩ := andThen_next.1 h
  obtain ⟨b, hb, h⟩ := andThen_next.1 h
  exact ⟨a, b, ha, hb, (next_inj.1 h).symm⟩

/-- What a `clk_fg` edge is made of (41_fg_commands.md R183). -/
theorem fgEdge_next {g : FgSample} (h : fgEdge g s = .next t) :
    ∃ a, fgStep s = .next a ∧ fgChains g s a = .next t := andThen_next.1 h

/-- `rx_err_view` on a `clk_fg` edge: it stays inside the OPEN window or with no new `rx_wview`, and is else
the tag of the newest entry (43_cdc_sync.md R220, R224). -/
theorem errViewAt_ok {x : Ptr} {e : Byte} : s.errViewAt x = .ok e ↔
    if (s.fg.phase = .openInit ∨ s.fg.phase = .openWait) ∨ x = s.fg.rxWview then e = s.fg.rxErrView
    else (Mem.read s.isr.rxTag (idx s.cfg.nRx (ptrPred s.cfg.nRx x))).map (·.setWidth 8) = some e := by
  unfold State.errViewAt State.fgCrossingsOn State.newestTag
  by_cases h1 : s.fg.phase = .openInit <;> by_cases h2 : s.fg.phase = .openWait <;>
    by_cases h3 : x = s.fg.rxWview <;>
    cases h4 : Mem.read s.isr.rxTag (idx s.cfg.nRx (ptrPred s.cfg.nRx x)) <;>
    simp [h1, h2, h3, eq_comm]

end Sys2Proof.Machine
end

