-- ==== Sys2Proof/Laws/PerInstr.lean ====
section
/-! SUPPORT. A law about every instruction as syntax: the word the encoder gives an instruction lies in
that instruction's own row of `spec/opcode_table.json` (30_encoding.md R114: `mask = 0x70000`,
`match = op << 16`), and an instruction of a row without an encoding gets no word. -/

namespace Sys2Proof.Laws.TableRow

/-- The `op` value of the instruction's row (30_encoding.md R101); none where the row has no word of
format CMD19. -/
def op : Instr → Option CmdWord
  | .nop => some 0
  | .openLine _ => some 1
  | .closeLine => some 2
  | .send _ => some 3
  | .read => some 4
  | .txstat => some 5
  | .rxstat => some 6
  | .rsvd7 => some 7
  | .sendseq _ | .isrRxc | .isrDre => none
  | .rbInit _ _ | .rbIsFull _ _ | .rbIsEmpty _ _ | .rbOcc _ _ | .rbPush _ _ _ | .rbPop _ => none
  | .ctlEnable | .ctlClose1 | .ctlClose2 | .ctlClose3 => none
  | .syncTxw _ | .syncTxr _ | .syncRxw _ | .syncRxr _ | .syncReq | .syncAck => none
  | .envRxArrive _ _ | .envTxReady => none

/-- The instruction's word, masked, is its row's match. -/
def Statement (i : Instr) : Prop := (encodeCmd i).map (fun (c : CmdWord) => c &&& 0x70000#19) = (op i).map (fun (o : CmdWord) => o <<< 16)

/-- Bits above a field survive joining the field's low bits to a word that is 0 there. -/
theorem masked_or {a b : BitVec 19} (h : b &&& 0x70000#19 = 0#19) :
    (a ||| b) &&& 0x70000#19 = a &&& 0x70000#19 := by
  apply BitVec.eq_of_getLsbD_eq
  intro i _
  have hb := congrArg (fun x => x.getLsbD i) h
  simp only [BitVec.getLsbD_and, BitVec.getLsbD_or, BitVec.getLsbD_zero] at hb ⊢
  cases hc : a.getLsbD i <;> cases hd : b.getLsbD i <;> simp_all

/-- An argument of at most 16 bits has no bit in the operation field. -/
theorem arg_masked {w : Nat} (hw : w ≤ 16) (x : BitVec w) :
    x.setWidth 19 &&& 0x70000#19 = 0#19 := by
  apply BitVec.eq_of_getLsbD_eq
  intro i _
  have hm : ∀ j : Fin 16, (0x70000#19).getLsbD j = false := by decide
  rw [BitVec.getLsbD_and, BitVec.getLsbD_setWidth, BitVec.getLsbD_zero]
  rcases Nat.lt_or_ge i 16 with h | h
  · rw [hm ⟨i, h⟩, Bool.and_false]
  · rw [BitVec.getLsbD_of_ge x i (by omega), Bool.and_false, Bool.false_and]

theorem nop : Statement .nop := by unfold Statement; decide
theorem openLine (baud : BitVec 16) : Statement (.openLine baud) := by
  unfold Statement encodeCmd op
  exact congrArg some ((masked_or (arg_masked (by decide) baud)).trans (by decide))
theorem closeLine : Statement .closeLine := by unfold Statement; decide
theorem send (b : Byte) : Statement (.send b) := by
  unfold Statement encodeCmd op sendWord
  exact congrArg some ((masked_or (arg_masked (by decide) b)).trans (by decide))
theorem read : Statement .read := by unfold Statement; decide
theorem txstat : Statement .txstat := by unfold Statement; decide
theorem rxstat : Statement .rxstat := by unfold Statement; decide
theorem rsvd7 : Statement .rsvd7 := by unfold Statement; decide
theorem sendseq (bs : List Byte) : Statement (.sendseq bs) := by unfold Statement; rfl
theorem isrRxc : Statement .isrRxc := by unfold Statement; rfl
theorem isrDre : Statement .isrDre := by unfold Statement; rfl
theorem rbInit (b : Buf) (p : InitPart) : Statement (.rbInit b p) := by unfold Statement; rfl
theorem rbIsFull (b : Buf) (d : Domain) : Statement (.rbIsFull b d) := by unfold Statement; rfl
theorem rbIsEmpty (b : Buf) (d : Domain) : Statement (.rbIsEmpty b d) := by unfold Statement; rfl
theorem rbOcc (b : Buf) (d : Domain) : Statement (.rbOcc b d) := by unfold Statement; rfl
theorem rbPush (b : Buf) (d : Byte) (t : Tag) : Statement (.rbPush b d t) := by unfold Statement; rfl
theorem rbPop (b : Buf) : Statement (.rbPop b) := by unfold Statement; rfl
theorem ctlEnable : Statement .ctlEnable := by unfold Statement; rfl
theorem ctlClose1 : Statement .ctlClose1 := by unfold Statement; rfl
theorem ctlClose2 : Statement .ctlClose2 := by unfold Statement; rfl
theorem ctlClose3 : Statement .ctlClose3 := by unfold Statement; rfl
theorem syncTxw (x : Ptr) : Statement (.syncTxw x) := by unfold Statement; rfl
theorem syncTxr (x : Ptr) : Statement (.syncTxr x) := by unfold Statement; rfl
theorem syncRxw (x : Ptr) : Statement (.syncRxw x) := by unfold Statement; rfl
theorem syncRxr (x : Ptr) : Statement (.syncRxr x) := by unfold Statement; rfl
theorem syncReq : Statement .syncReq := by unfold Statement; rfl
theorem syncAck : Statement .syncAck := by unfold Statement; rfl
theorem envRxArrive (d : Byte) (e : BitVec 3) : Statement (.envRxArrive d e) := by unfold Statement; rfl
theorem envTxReady : Statement .envTxReady := by unfold Statement; rfl

end Sys2Proof.Laws.TableRow
end

