-- ==== Sys2Proof/Laws/Pointer.lean ====
section
/-! SUPPORT. Laws of pointer arithmetic: `occ`, `ptrInc`, `ptrPred`, `ptrAdd` and `idx` as plain arithmetic
on values below `2^(N+1)`, and the gray code. -/

namespace Sys2Proof.Machine

theorem modulus_dvd {n : Nat} (hn : n ≤ 12) : 2 ^ (n + 1) ∣ 8192 :=
  Nat.pow_dvd_pow 2 (by omega : n + 1 ≤ 13)

theorem modulus_le {n : Nat} (hn : n ≤ 12) : 2 ^ (n + 1) ≤ 8192 :=
  Nat.le_of_dvd (by decide) (modulus_dvd hn)

theorem modulus_two (n : Nat) : 2 ^ (n + 1) = 2 * 2 ^ n := by rw [Nat.pow_succ]; omega

theorem capacity_pos (n : Nat) : 0 < 2 ^ n := Nat.two_pow_pos n

/-- The distance of two pointers, as plain arithmetic. -/
theorem occ_of_lt {n : Nat} (hn : n ≤ 12) {w r : Ptr} (hw : w.toNat < 2 ^ (n + 1))
    (hr : r.toNat < 2 ^ (n + 1)) :
    occ n w r = if r.toNat ≤ w.toNat then w.toNat - r.toNat
      else w.toNat + 2 ^ (n + 1) - r.toNat := by
  obtain ⟨k, hk⟩ := modulus_dvd hn
  have hle := modulus_le hn
  have hM : 0 < 2 ^ (n + 1) := Nat.two_pow_pos _
  unfold occ
  rw [BitVec.toNat_sub, Nat.mod_mod_of_dvd _ (modulus_dvd hn)]
  generalize 2 ^ (n + 1) = M at *
  have e : 2 ^ 13 - r.toNat + w.toNat = (M - r.toNat + w.toNat) + M * (k - 1) := by
    have hk1 : 1 ≤ k := by
      rcases Nat.eq_zero_or_pos k with h | h
      · subst h; omega
      · exact h
    have : M * k = M * (k - 1) + M := by
      obtain ⟨j, rfl⟩ := Nat.exists_eq_add_of_le hk1
      rw [show 1 + j - 1 = j by omega, Nat.mul_add]; omega
    omega
  rw [e, Nat.add_mul_mod_self_left]
  split
  · rw [show M - r.toNat + w.toNat = (w.toNat - r.toNat) + M by omega, Nat.add_mod_right,
      Nat.mod_eq_of_lt (by omega)]
  · rw [Nat.mod_eq_of_lt (by omega)]; omega

theorem ptrInc_toNat {n : Nat} (hn : n ≤ 12) {p : Ptr} (hp : p.toNat < 2 ^ (n + 1)) :
    (ptrInc n p).toNat = if p.toNat + 1 = 2 ^ (n + 1) then 0 else p.toNat + 1 := by
  have hle := modulus_le hn
  unfold ptrInc
  rw [BitVec.toNat_ofNat]
  split
  · next h => simp [h]
  · rw [Nat.mod_eq_of_lt (a := p.toNat + 1) (by omega), Nat.mod_eq_of_lt (by omega)]

theorem ptrInc_lt {n : Nat} (hn : n ≤ 12) {p : Ptr} (hp : p.toNat < 2 ^ (n + 1)) :
    (ptrInc n p).toNat < 2 ^ (n + 1) := by
  have hM : 0 < 2 ^ (n + 1) := Nat.two_pow_pos _
  rw [ptrInc_toNat hn hp]; split <;> omega

theorem ptrAdd_toNat {n : Nat} (hn : n ≤ 12) {p : Ptr} {k : Nat} (hp : p.toNat < 2 ^ (n + 1))
    (hk : k < 2 ^ (n + 1)) :
    (ptrAdd n p k).toNat =
      if p.toNat + k < 2 ^ (n + 1) then p.toNat + k else p.toNat + k - 2 ^ (n + 1) := by
  have hle := modulus_le hn
  unfold ptrAdd
  rw [BitVec.toNat_ofNat]
  split
  · next h => rw [Nat.mod_eq_of_lt h, Nat.mod_eq_of_lt (by omega)]
  · next h =>
    rw [Nat.mod_eq_sub_mod (a := p.toNat + k) (b := 2 ^ (n + 1)) (by omega),
      Nat.mod_eq_of_lt (a := p.toNat + k - 2 ^ (n + 1)) (b := 2 ^ (n + 1)) (by omega),
      Nat.mod_eq_of_lt (by omega)]

theorem ptrPred_toNat {n : Nat} (hn : n ≤ 12) {p : Ptr} (hp : p.toNat < 2 ^ (n + 1)) :
    (ptrPred n p).toNat = if p.toNat = 0 then 2 ^ (n + 1) - 1 else p.toNat - 1 := by
  have hM : 0 < 2 ^ (n + 1) := Nat.two_pow_pos _
  show (ptrAdd n p (2 ^ (n + 1) - 1)).toNat = _
  rw [ptrAdd_toNat hn hp (by omega)]
  (repeat' split) <;> omega

theorem ptrAdd_zero {n : Nat} (hn : n ≤ 12) {p : Ptr} (hp : p.toNat < 2 ^ (n + 1)) :
    ptrAdd n p 0 = p := by
  apply BitVec.eq_of_toNat_eq
  rw [ptrAdd_toNat hn hp (Nat.two_pow_pos _)]
  split <;> omega

/-- `k` steps from `r + 1` are `k + 1` steps from `r`. -/
theorem ptrAdd_ptrInc {n : Nat} (hn : n ≤ 12) {p : Ptr} {k : Nat} (hp : p.toNat < 2 ^ (n + 1))
    (hk : k + 1 < 2 ^ (n + 1)) : ptrAdd n (ptrInc n p) k = ptrAdd n p (k + 1) := by
  apply BitVec.eq_of_toNat_eq
  rw [ptrAdd_toNat hn (ptrInc_lt hn hp) (by omega), ptrAdd_toNat hn hp hk, ptrInc_toNat hn hp]
  (repeat' split) <;> omega

/-- Walking the whole distance from `r` reaches `w`. -/
theorem ptrAdd_occ {n : Nat} (hn : n ≤ 12) {w r : Ptr} (hw : w.toNat < 2 ^ (n + 1))
    (hr : r.toNat < 2 ^ (n + 1)) : ptrAdd n r (occ n w r) = w := by
  apply BitVec.eq_of_toNat_eq
  have h := occ_of_lt hn hw hr
  have : occ n w r < 2 ^ (n + 1) := by rw [h]; split <;> omega
  rw [ptrAdd_toNat hn hr this, h]
  (repeat' split) <;> omega

theorem occ_lt (n : Nat) (w r : Ptr) : occ n w r < 2 ^ (n + 1) := Nat.mod_lt _ (Nat.two_pow_pos _)

theorem occ_self (n : Nat) (p : Ptr) : occ n p p = 0 := by simp [occ]

theorem occ_eq_zero {n : Nat} (hn : n ≤ 12) {w r : Ptr} (hw : w.toNat < 2 ^ (n + 1))
    (hr : r.toNat < 2 ^ (n + 1)) : occ n w r = 0 ↔ w = r := by
  constructor
  · intro h
    rw [occ_of_lt hn hw hr] at h
    apply BitVec.eq_of_toNat_eq
    split at h <;> omega
  · rintro rfl; exact occ_self _ _

/-- A push makes the distance one longer, unless it already spans all but one value. -/
theorem occ_inc_left {n : Nat} (hn : n ≤ 12) {w r : Ptr} (hw : w.toNat < 2 ^ (n + 1))
    (hr : r.toNat < 2 ^ (n + 1)) (h : occ n w r + 1 < 2 ^ (n + 1)) :
    occ n (ptrInc n w) r = occ n w r + 1 := by
  rw [occ_of_lt hn hw hr] at h
  rw [occ_of_lt hn (ptrInc_lt hn hw) hr, occ_of_lt hn hw hr, ptrInc_toNat hn hw]
  split at h <;> (repeat' split) <;> omega

/-- A pop makes the distance one shorter. -/
theorem occ_inc_right {n : Nat} (hn : n ≤ 12) {w r : Ptr} (hw : w.toNat < 2 ^ (n + 1))
    (hr : r.toNat < 2 ^ (n + 1)) (h : w ≠ r) : occ n w (ptrInc n r) + 1 = occ n w r := by
  have h' : w.toNat ≠ r.toNat := fun e => h (BitVec.eq_of_toNat_eq e)
  rw [occ_of_lt hn hw (ptrInc_lt hn hr), occ_of_lt hn hw hr, ptrInc_toNat hn hr]
  (repeat' split) <;> omega

/-- Distances add up along the way forward. -/
theorem occ_add {n : Nat} (hn : n ≤ 12) {a b c : Ptr} (ha : a.toNat < 2 ^ (n + 1))
    (hb : b.toNat < 2 ^ (n + 1)) (hc : c.toNat < 2 ^ (n + 1)) (h : occ n b a ≤ occ n c a) :
    occ n b a + occ n c b = occ n c a := by
  rw [occ_of_lt hn hb ha, occ_of_lt hn hc ha] at h
  rw [occ_of_lt hn hb ha, occ_of_lt hn hc ha, occ_of_lt hn hc hb]
  split at h <;> split at h <;> (repeat' split) <;> omega

theorem idx_lt (n : Nat) (p : Ptr) : idx n p < 2 ^ n := Nat.mod_lt _ (Nat.two_pow_pos _)

/-- Two pointers less than a capacity apart, and not equal, have different indices. -/
theorem idx_ne_of_occ {n : Nat} (hn : n ≤ 12) {w r : Ptr} (hw : w.toNat < 2 ^ (n + 1))
    (hr : r.toNat < 2 ^ (n + 1)) (h0 : 0 < occ n w r) (h : occ n w r < 2 ^ n) :
    idx n w ≠ idx n r := by
  intro e
  unfold idx at e
  have h2 := modulus_two n
  have hC := capacity_pos n
  have hw' := Nat.div_add_mod w.toNat (2 ^ n)
  have hr' := Nat.div_add_mod r.toNat (2 ^ n)
  have hwq : w.toNat / 2 ^ n < 2 := Nat.div_lt_of_lt_mul (by omega)
  have hrq : r.toNat / 2 ^ n < 2 := Nat.div_lt_of_lt_mul (by omega)
  rw [occ_of_lt hn hw hr] at h h0
  generalize w.toNat / 2 ^ n = a at *
  generalize r.toNat / 2 ^ n = b at *
  generalize hc : 2 ^ n = C at *
  have ha : a = 0 ∨ a = 1 := by omega
  have hb : b = 0 ∨ b = 1 := by omega
  rcases ha with rfl | rfl <;> rcases hb with rfl | rfl <;> split at h <;> split at h0 <;> omega

theorem gray_xor (a b : Ptr) : gray (a ^^^ b) = gray a ^^^ gray b := by
  unfold gray
  rw [BitVec.ushiftRight_xor_distrib]
  ac_rfl

theorem xor_shift_twice (b : Ptr) (k : Nat) :
    (b ^^^ (b >>> k)) ^^^ ((b ^^^ (b >>> k)) >>> k) = b ^^^ (b >>> (k + k)) := by
  rw [BitVec.ushiftRight_xor_distrib, BitVec.shiftRight_add,
    show (b ^^^ b >>> k) ^^^ (b >>> k ^^^ b >>> k >>> k) =
      b ^^^ ((b >>> k ^^^ b >>> k) ^^^ b >>> k >>> k) by ac_rfl,
    BitVec.xor_self, BitVec.zero_xor]

theorem shift_out (b : Ptr) (k : Nat) (h : 13 ≤ k) : b >>> k = 0 := by
  apply BitVec.eq_of_toNat_eq
  rw [BitVec.toNat_ushiftRight, Nat.shiftRight_eq_div_pow]
  have hb := b.isLt
  have : 2 ^ 13 ≤ 2 ^ k := Nat.pow_le_pow_right (by decide) h
  rw [Nat.div_eq_of_lt (by omega)]
  rfl

end Sys2Proof.Machine
end

