-- ==== Sys2Proof/Laws/Ring.lean ====
section
/-! SUPPORT. Laws of one ring buffer: how a push, a pop and the advance of either view keep the order of
10_state.md R24, and what a push and a pop do to the entries held. -/

namespace Sys2Proof.Safety

open Sys2Proof.Machine

variable {n : Nat} {w r wv rv x : Ptr}

/-- Two walks one after the other, short enough not to come round, are one walk. -/
theorem occ_trans (hn : n ≤ 12) {a b c : Ptr} (ha : a.toNat < 2 ^ (n + 1))
    (hb : b.toNat < 2 ^ (n + 1)) (hc : c.toNat < 2 ^ (n + 1))
    (h : occ n b a + occ n c b < 2 ^ (n + 1)) : occ n c a = occ n b a + occ n c b := by
  rw [occ_of_lt hn hb ha, occ_of_lt hn hc hb] at h
  rw [occ_of_lt hn hb ha, occ_of_lt hn hc ha, occ_of_lt hn hc hb]
  split at h <;> split at h <;> (repeat' split) <;> omega

theorem ring_push (hn : n ≤ 12) (hw : w.toNat < 2 ^ (n + 1)) (hwv : wv.toNat < 2 ^ (n + 1))
    (hrv : rv.toNat < 2 ^ (n + 1)) (h : RingOrdered n w r wv rv) (hf : occ n w rv ≠ 2 ^ n) :
    RingOrdered n (ptrInc n w) r wv rv := by
  obtain ⟨h1, h2⟩ := h
  have hC := capacity_pos n
  have hM := modulus_two n
  have e1 := occ_inc_left hn hw hrv (by omega)
  have e2 := occ_inc_left hn hw hwv (by omega)
  exact ⟨by omega, by omega⟩

theorem ring_pop (hn : n ≤ 12) (hr : r.toNat < 2 ^ (n + 1)) (hwv : wv.toNat < 2 ^ (n + 1))
    (hrv : rv.toNat < 2 ^ (n + 1)) (h : RingOrdered n w r wv rv) (he : wv ≠ r) :
    RingOrdered n w (ptrInc n r) wv rv := by
  obtain ⟨h1, h2⟩ := h
  have hC := capacity_pos n
  have hM := modulus_two n
  have e2 := occ_inc_right hn hwv hr he
  have e1 := occ_inc_left hn hr hrv (by omega)
  exact ⟨by omega, by omega⟩

theorem ring_wview (hn : n ≤ 12) (hw : w.toNat < 2 ^ (n + 1)) (hr : r.toNat < 2 ^ (n + 1))
    (hwv : wv.toNat < 2 ^ (n + 1)) (hx : x.toNat < 2 ^ (n + 1)) (h : RingOrdered n w r wv rv)
    (hle : occ n x wv ≤ occ n w wv) : RingOrdered n w r x rv := by
  obtain ⟨h1, h2⟩ := h
  have hC := capacity_pos n
  have hM := modulus_two n
  have e1 := occ_add hn hwv hx hw hle
  have e2 := occ_trans hn hr hwv hx (by omega)
  exact ⟨by omega, h2⟩

theorem ring_rview (hn : n ≤ 12) (hw : w.toNat < 2 ^ (n + 1)) (hr : r.toNat < 2 ^ (n + 1))
    (hrv : rv.toNat < 2 ^ (n + 1)) (hx : x.toNat < 2 ^ (n + 1)) (h : RingOrdered n w r wv rv)
    (hle : occ n x rv ≤ occ n r rv) : RingOrdered n w r wv x := by
  obtain ⟨h1, h2⟩ := h
  have e1 := occ_add hn hrv hx hr hle
  have e2 := occ_add hn hrv hx hw (by omega)
  exact ⟨by omega, by omega⟩

/-- The true occupancy lies within what the producer counts. -/
theorem ring_count (hn : n ≤ 12) (hw : w.toNat < 2 ^ (n + 1)) (hr : r.toNat < 2 ^ (n + 1))
    (hwv : wv.toNat < 2 ^ (n + 1)) (h : RingOrdered n w r wv rv) :
    occ n w r = occ n wv r + occ n w wv := by
  obtain ⟨h1, h2⟩ := h
  have hC := capacity_pos n
  have hM := modulus_two n
  exact occ_trans hn hr hwv hw (by omega)

variable {k : Nat} {m : Mem k} {b : BitVec k}

theorem Held.write (h : Held m n w r) (i : Nat) (b : BitVec k) : Held (Mem.write m i b) n w r :=
  fun j hj => Mem.isSome_write (h j hj) i b

theorem Held.push (hn : n ≤ 12) (hw : w.toNat < 2 ^ (n + 1)) (hr : r.toNat < 2 ^ (n + 1))
    (hlt : occ n w r < 2 ^ n) (h : Held m n w r) (b : BitVec k) :
    Held (Mem.write m (idx n w) b) n (ptrInc n w) r := by
  intro i hi
  have hM := modulus_two n
  rw [occ_inc_left hn hw hr (by omega)] at hi
  by_cases e : i = occ n w r
  · subst e; rw [ptrAdd_occ hn hw hr]; simp
  · exact Mem.isSome_write (h i (by omega)) _ _

theorem Held.pop (hn : n ≤ 12) (hw : w.toNat < 2 ^ (n + 1)) (hr : r.toNat < 2 ^ (n + 1))
    (he : w ≠ r) (h : Held m n w r) : Held m n w (ptrInc n r) := by
  intro i hi
  have e := occ_inc_right hn hw hr he
  have hl := occ_lt n w r
  rw [ptrAdd_ptrInc hn hr (by omega)]
  exact h (i + 1) (by omega)

theorem Held.head (hn : n ≤ 12) (hw : w.toNat < 2 ^ (n + 1)) (hr : r.toNat < 2 ^ (n + 1))
    (he : w ≠ r) (h : Held m n w r) : (Mem.read m (idx n r)).isSome = true := by
  have h0 : occ n w r ≠ 0 := fun e => he ((occ_eq_zero hn hw hr).1 e)
  have := h 0 (by omega)
  rwa [ptrAdd_zero hn hr] at this

/-- The entry before a value between the read pointer and the write pointer has been written. -/
theorem Held.before (hn : n ≤ 12) (hx : x.toNat < 2 ^ (n + 1)) (hr : r.toNat < 2 ^ (n + 1))
    (h0 : 0 < occ n x r) (hle : occ n x r ≤ occ n w r) (h : Held m n w r) :
    (Mem.read m (idx n (ptrPred n x))).isSome = true := by
  have := h (occ n x r - 1) (by omega)
  have hl := occ_lt n x r
  have e : ptrAdd n r (occ n x r - 1) = ptrPred n x := by
    apply BitVec.eq_of_toNat_eq
    rw [ptrAdd_toNat hn hr (by omega), ptrPred_toNat hn hx]
    rw [occ_of_lt hn hx hr] at h0 ⊢
    split at h0 <;> (repeat' split) <;> omega
  rwa [e] at this

/-- A push puts its entry behind those held (40_ring_buffer.md R148). -/
theorem contents_push (hn : n ≤ 12) (hw : w.toNat < 2 ^ (n + 1)) (hr : r.toNat < 2 ^ (n + 1))
    (hlt : occ n w r < 2 ^ n) :
    contents (Mem.write m (idx n w) b) n (ptrInc n w) r = contents m n w r ++ [some b] := by
  have hM := modulus_two n
  unfold contents
  rw [occ_inc_left hn hw hr (by omega), List.range_succ, List.map_append]
  congr 1
  · apply List.map_congr_left
    intro i hi
    have hi' : i < occ n w r := List.mem_range.1 hi
    refine Mem.read_write_other m b ?_
    have hl := occ_lt n w r
    have hp : (ptrAdd n r i).toNat < 2 ^ (n + 1) := by
      rw [ptrAdd_toNat hn hr (by omega)]; split <;> omega
    have hiM : i < 2 ^ (n + 1) := by omega
    have ho : occ n w (ptrAdd n r i) = occ n w r - i := by
      rw [occ_of_lt hn hw hr] at hi' ⊢
      rw [occ_of_lt hn hw hp, ptrAdd_toNat hn hr hiM]
      split at hi' <;> (repeat' split) <;> omega
    exact (idx_ne_of_occ hn hw hp (by omega) (by omega)).symm
  · simp [ptrAdd_occ hn hw hr]

/-- A pop takes the oldest entry and leaves the rest (40_ring_buffer.md R148). -/
theorem contents_pop (hn : n ≤ 12) (hw : w.toNat < 2 ^ (n + 1)) (hr : r.toNat < 2 ^ (n + 1))
    (he : w ≠ r) : contents m n w r = Mem.read m (idx n r) :: contents m n w (ptrInc n r) := by
  have e := occ_inc_right hn hw hr he
  have hl := occ_lt n w r
  unfold contents
  rw [← e, List.range_succ_eq_map, List.map_cons, ptrAdd_zero hn hr, List.map_map]
  congr 1
  apply List.map_congr_left
  intro i hi
  have hi' := List.mem_range.1 hi
  simp only [Function.comp]
  rw [ptrAdd_ptrInc hn hr (by omega)]

end Sys2Proof.Safety
end

