-- ==== Sys2Proof/Tests/Slice0.lean ====
section
/-! SUPPORT. Tests of one step each against the vectors of 95_test_vectors.md, the words of 30_encoding.md
written out bit by bit, the ill-formed terms WellFormed refuses, and, for every statement that has
hypotheses, a state and operands that meet them. -/

namespace Sys2Proof.Tests

open Sys2Proof.Machine Sys2Proof.Safety

/-! ## The states the tests start from -/

/-- `N_TX = N_RX = 2`, `S = 2`, `T_SETTLE = 3`, agent level. -/
def cfg : Params where
  nTx := 2
  nRx := 2
  stages := 2
  tSettle := 3
  errTagMode := .latch
  level := .agent

/-- The default capacities (`C = 32`). -/
def cfg32 : Params := { cfg with nTx := 5, nRx := 5 }

/-- The state after reset. -/
def closed : State := State.resetWith cfg

/-- The "Opened state" of 95_test_vectors.md, of an instance with parameters `c`. -/
def openedWith (c : Params) : State :=
  let s := State.resetWith c
  { s with
    fg := { s.fg with lineOpen := true, enReq := true, enAckView := true, baudHold := 0x67 }
    isr := { s.isr with
      phase := .enabled, enReqView := true, enAck := true, baud := 0x67
      rxen := true, txen := true, rxcie := true }
    ghost := { s.ghost with portcfgCount := 1 } }

/-- The Opened state with `C = 4`. -/
def opened : State := openedWith cfg

/-- The Opened state with `C = 32`. -/
def opened32 : State := openedWith cfg32

/-- The state a step goes on to. -/
def got (o : Host.Outcome State Fault Refusal) : Option State :=
  match o with
  | .next s => some s
  | _ => none

/-- One field of the state a step goes on to. -/
def part {α : Type} (o : Host.Outcome State Fault Refusal) (f : State → α) : Option α := (got o).map f

/-- `s` with a byte waiting in the serial unit. -/
def withByte (s : State) (d : Byte) (e : BitVec 3) : State :=
  { s with ser := { s.ser with rxc := true, rxData := d, rxErr := e } }

/-- A receive buffer with its pointers, views, storages and `rx_err_view` as a vector gives them. -/
def withRx (s : State) (mem : List Host.Cell) (tag : List (Nat × BitVec 4)) (w r wv rv : Ptr)
    (err : Byte) : State :=
  { s with
    isr := { s.isr with rxMem := mem, rxTag := tag, rxWptr := w, rxRview := rv }
    fg := { s.fg with rxRptr := r, rxWview := wv, rxErrView := err } }

/-- A transmit buffer with its pointers, views and storage as a vector gives them. -/
def withTx (s : State) (mem : List Host.Cell) (w r wv rv : Ptr) : State :=
  { s with
    fg := { s.fg with txMem := mem, txWptr := w, txRview := rv }
    isr := { s.isr with txRptr := r, txWview := wv } }

/-- `s` in an interrupt phase. -/
def inPhase (s : State) (p : IsrPhase) : State := { s with isr := { s.isr with phase := p } }

/-- `s` in a foreground phase. -/
def inFg (s : State) (p : FgPhase) : State := { s with fg := { s.fg with phase := p } }

/-- `s` at the register level. -/
def atRegister (s : State) : State := { s with cfg := { s.cfg with level := .register } }

/-! ## WellFormed refuses ill-formed terms -/

theorem test_wf_nTx : Params.wellFormed { cfg with nTx := 13 } = false := by decide
theorem test_wf_nRx : Params.wellFormed { cfg with nRx := 13 } = false := by decide
theorem test_wf_stages : Params.wellFormed { cfg with stages := 1 } = false := by decide
theorem test_wf_lines : DeviceParams.wellFormed { numLines := 0, line := cfg } = false ∧
    DeviceParams.default.wellFormed = true ∧ Lines.wellFormed { numLines := 1, line := cfg } [] = false := by
  decide
theorem test_wf_params : cfg.wellFormed = true ∧
    Params.wellFormed { cfg with nTx := 12, nRx := 0 } = true := by decide
theorem test_wf_txw : Instr.wellFormed cfg (.syncTxw 8) = false := by decide
theorem test_wf_txr : Instr.wellFormed cfg (.syncTxr 8) = false := by decide
theorem test_wf_rxw : Instr.wellFormed cfg (.syncRxw 8) = false := by decide
theorem test_wf_rxr : Instr.wellFormed cfg (.syncRxr 8) = false := by decide
theorem test_wf_push : Instr.wellFormed cfg (.rbPush .tx 0 1) = false := by decide
theorem test_wf_sync : Instr.wellFormed cfg (.syncTxw 7) = true ∧
    Instr.wellFormed cfg (.rbPush .rx 0 1) = true := by decide

/-! ## Decoding: `op` in bits 18:16, `arg` in bits 15:0 (30_encoding.md R100, R101) -/

theorem test_decode_nop : decodeCmd 0b000_0000_0000_0000_0000#19 = .nop := by decide
theorem test_decode_open : decodeCmd 0b001_0000_0000_0110_0111#19 = .openLine 0x67 := by decide
theorem test_decode_close : decodeCmd 0b010_0000_0000_0000_0000#19 = .closeLine := by decide
theorem test_decode_send : decodeCmd 0b011_0000_0001_1111_1110#19 = .send 0xFE := by decide
theorem test_decode_read : decodeCmd 0b100_0000_0000_0000_0001#19 = .read := by decide
theorem test_decode_txstat : decodeCmd 0b101_1000_0000_0000_0000#19 = .txstat := by decide
theorem test_decode_rxstat : decodeCmd 0b110_0000_0000_0000_0000#19 = .rxstat := by decide
theorem test_decode_rsvd7 : decodeCmd 0b111_1010_1011_1100_1101#19 = .rsvd7 := by decide
theorem test_decode_rxc : decodeEv 0b1101#4 = some .isrRxc := by decide
theorem test_decode_dre : decodeEv 0b1011#4 = some .isrDre := by decide
theorem test_decode_none : decodeEv 0b0110#4 = none := by decide
theorem test_decode_table : decodeTableWord 19 0x300AA = some (.send 0xAA) ∧
    decodeTableWord 4 0b0011 = some .isrDre ∧ decodeTableWord 4 0 = none := by decide
theorem test_encode : encode (.openLine 0x67) = some (.cmd19, 0x10067) ∧
    encode (.send 0xAA) = some (.cmd19, 0x300AA) ∧ encode .syncReq = none := by decide

/-! ## Pointers and gray code: V1 to V13 -/

/-- V3: wrap of a 3-bit pointer. -/
theorem test_ptr_wrap : ptrInc 2 7 = 0 ∧ idx 2 7 = 3 ∧ occ 2 0 5 = 3 := by decide
/-- V6, V9. -/
theorem test_occ : occ 2 1 6 = 3 ∧ occ 0 1 0 = 1 ∧ occ 5 37 5 = 32 := by decide
/-- V11: 6-bit pointers. -/
theorem test_gray6 : [0#13, 1#13, 31#13, 32#13, 33#13, 62#13, 63#13].map gray =
    [0b000000#13, 0b000001#13, 0b010000#13, 0b110000#13, 0b110001#13, 0b100001#13,
      0b100000#13] := by decide
/-- V13, V14: the gray full test. -/
theorem test_gray_full : grayFull 5 37 5 = true ∧ grayFull 5 33 0 = false := by decide

/-! ## The foreground commands: V15 to V31, V66 to V72 -/

/-- V15. -/
theorem test_nop : got (exec .nop closed) =
    some { closed with fg := { closed.fg with rsp := 0, rspValid := true } } := by decide
/-- V30. -/
theorem test_rsvd7 : part (exec .rsvd7 closed) (·.fg.rsp) = some 0x8000 := by decide
/-- V66. -/
theorem test_open_starts : part (exec (.openLine 0x67) closed)
    (fun t => (t.fg.portcfg, t.fg.phase, t.ghost.portcfgCount, t.fg.baudHold)) =
      some (true, .openInit, 1, 0x67) := by decide
/-- V71, V67. -/
theorem test_open_refused : part (exec (.openLine 0x10) opened)
    (fun t => (t.fg.rsp, t.isr.baud, t.ghost.portcfgCount, t.fg.phase)) =
      some (0x4000, 0x67, 1, .idle) := by decide
/-- V70. -/
theorem test_close_refused : part (exec .closeLine closed) (·.fg.rsp) = some 0x2000 := by decide
/-- P5 step 4. -/
theorem test_close_waits_for_drain : part (exec .closeLine
    (inFg (withTx opened [] 3 0 0 0) .closeDrain)) (fun t => (t.fg.phase, t.fg.enReq)) =
      some (.closeDrain, true) := by decide
/-- V24, with the word's ignored bits set. -/
theorem test_send : part (exec (decodeCmd 0x301FF#19) opened32)
    (fun t => (t.fg.rsp, t.fg.txMem, t.fg.txWptr)) = some (0, [(0, 0xFF)], 1) := by decide
/-- P4 step 6. -/
theorem test_send_holds : part (exec (.send 0xA5) (withTx opened [] 4 1 4 0))
    (fun t => (t.fg.cmdHold, t.fg.phase, t.fg.rspValid, t.fg.txWptr)) =
      some (0xA5, .sendWait, false, 4) := by decide
/-- V22: LATCH. -/
theorem test_read_latch : part (exec .read
    (withRx opened32 [(0, 0x41), (1, 0x42)] [(0, 1), (1, 0)] 2 0 2 0 0))
    (fun t => (t.fg.rsp, t.fg.rxRptr)) = some (0x0041, 1) := by decide
/-- V18: no data, with the flags carried over. -/
theorem test_read_empty : part (exec .read (withRx opened32 [] [] 4 4 4 4 0x05))
    (fun t => (t.fg.rsp, t.fg.rxRptr)) = some (0x0B00, 4) := by decide
/-- V23: PER_BYTE. -/
theorem test_read_per_byte : part (exec .read (withRx
    (openedWith { cfg with errTagMode := .perByte }) [(0, 0x41)] [(0, 1)] 2 0 2 0 0)) (·.fg.rsp) =
      some 0x0241 := by decide
/-- V29: `OCC = 4096` fills bit 12. -/
theorem test_txstat_full : part (exec .txstat
    (withTx (openedWith { cfg with nTx := 12 }) [] 4096 0 0 0)) (·.fg.rsp) = some 0x9000 := by decide
/-- V25. -/
theorem test_txstat : part (exec .txstat (withTx opened32 [] 5 2 5 2)) (·.fg.rsp) =
    some 0x0003 := by decide
/-- P3 step 6. -/
theorem test_rxstat_full : part (exec .rxstat (withRx opened [] [] 4 0 4 0 0)) (·.fg.rsp) =
    some 0x8004 := by decide
/-- V28. -/
theorem test_rxstat_closed : part (exec .rxstat closed) (·.fg.rsp) = some 0x6000 := by decide
/-- R175's example. -/
theorem test_sendseq : part (exec (.sendseq [0x01, 0x02]) opened) (·.host.pending) =
    some [0x30001, 0x30002] := by decide

/-! ## The interrupt domain: V32 to V48 -/

/-- V33: a byte with receive errors is stored. -/
theorem test_rxc_stores : part (exec .isrRxc (withByte opened 0x41 0b101))
    (fun t => (t.isr.rxMem, t.isr.rxTag, t.isr.rxWptr, t.isr.lastRxError, t.ser.rxc)) =
      some ([(0, 0x41)], [(0, 5)], 1, 0x05, false) := by decide
/-- V35: a second drop. -/
theorem test_rxc_drops : part (exec .isrRxc (withByte
    { withRx opened [] [] 4 0 4 0 0 with
      isr := { (withRx opened [] [] 4 0 4 0 0).isr with rxDropPending := true } } 0x16 0b010))
    (fun t => (t.isr.rxDropPending, t.isr.lastRxError, t.isr.rxWptr, t.ser.rxc)) =
      some (true, 0x0A, 4, false) := by decide
/-- V39. -/
theorem test_dre_sends : part (exec .isrDre
    { withTx opened32 [(0, 0x01)] 2 0 2 0 with
      isr := { (withTx opened32 [(0, 0x01)] 2 0 2 0).isr with dreie := true } })
    (fun t => (t.isr.txRptr, t.ser.dre, t.ghost.txSink, t.isr.dreie)) =
      some (1, false, [0x01], true) := by decide
/-- V40. -/
theorem test_dre_disarms : part (exec .isrDre
    { withTx opened32 [] 2 2 2 2 with
      isr := { (withTx opened32 [] 2 2 2 2).isr with dreie := true } })
    (fun t => (t.ctrlWord, t.isr.txRptr, t.ser.dre)) = some (0x7, 2, true) := by decide

/-- The state before V43. -/
def beforeEnable : State :=
  { closed with
    fg := { closed.fg with baudHold := 0x67, enReq := true, phase := .openWait }
    isr := { closed.isr with
      enReqView := true, txRptr := 3, rxWptr := 1, rxDropPending := true, lastRxError := 8 } }

/-- V43. -/
theorem test_enable : part (exec .ctlEnable beforeEnable)
    (fun t => (t.isr.txRptr, t.isr.rxWptr, t.isr.lastRxError, t.isr.rxDropPending)) =
      some (0, 0, 0, false) ∧
  part (exec .ctlEnable beforeEnable)
    (fun t => (t.isr.baud, t.ctrlWord, t.isr.enAck, t.isr.phase)) =
      some (0x67, 0x7, true, .enabled) := by decide
/-- V44. -/
theorem test_close1 : part (exec .ctlClose1
    { opened with isr := { opened.isr with enReqView := false } }) (·.isr.phase) =
      some .waitDre := by decide
/-- V46. -/
theorem test_close2 : part (exec .ctlClose2 (inPhase opened .waitDre))
    (fun t => (t.isr.settleCnt, t.isr.phase)) = some (3, .settle) := by decide
/-- V45. -/
theorem test_close2_held : part (exec .ctlClose2
    { inPhase opened .waitDre with ser := { opened.ser with dre := false } }) (·.isr.phase) =
      some .waitDre := by decide
/-- V48. -/
theorem test_close3 : part (exec .ctlClose3 (inPhase (withByte opened 0 0) .settle))
    (fun t => (t.ctrlWord, t.isr.enAck, t.isr.phase, t.ser.rxc)) =
      some (0x0, false, .disabled, false) := by decide

/-! ## The crossings: V49 to V59 -/

/-- V49. -/
theorem test_txw : part (exec (.syncTxw 1) (withTx opened [] 2 0 0 0))
    (fun t => (t.isr.txWview, t.isr.dreie)) = some (1, true) := by decide
/-- V50. -/
theorem test_txw_disabled : part (exec (.syncTxw 1) (inPhase (withTx opened [] 2 0 0 0) .disabled))
    (fun t => (t.isr.txWview, t.isr.dreie)) = some (0, false) := by decide
/-- V51. -/
theorem test_txr : part (exec (.syncTxr 1) (inFg (withTx opened [] 4 1 4 0) .sendWait))
    (·.fg.txRview) = some 1 := by decide
/-- V54: the tag of the newest visible entry, at wrapped index 0. -/
theorem test_rxw : part (exec (.syncRxw 5) (withRx opened [] [(0, 9), (3, 2)] 5 3 3 1 0))
    (fun t => (t.fg.rxWview, t.fg.rxErrView)) = some (5, 0x09) := by decide
/-- V55. -/
theorem test_rxw_beyond : part (exec (.syncRxw 6) (withRx opened [] [(0, 9), (3, 2)] 5 3 3 1 0))
    (·.fg.rxWview) = some 3 ∧ part (exec (.syncRxw 2)
      (withRx opened [] [(0, 9), (3, 2)] 5 3 3 1 0)) (·.fg.rxWview) = some 3 := by decide
/-- V56. -/
theorem test_rxr : part (exec (.syncRxr 1) (withRx opened [] [] 1 1 1 0 0)) (·.isr.rxRview) =
    some 1 := by decide
/-- V57. -/
theorem test_req : part (exec .syncReq { closed with fg := { closed.fg with enReq := true } })
    (·.isr.enReqView) = some true := by decide
/-- V58. -/
theorem test_ack : part (exec .syncAck { opened with isr := { opened.isr with enAck := false } })
    (·.fg.enAckView) = some false := by decide

/-! ## The environment: V61 to V65 -/

/-- V61. -/
theorem test_rx_arrive : part (exec (.envRxArrive 0x41 0) opened)
    (fun t => (t.ser.rxc, t.ser.rxData, t.ghost.rxSource)) = some (true, 0x41, [(0x41, 0)]) := by decide
/-- V62. -/
theorem test_rx_arrive_off : part (exec (.envRxArrive 0x41 0) closed) (·.ser.rxc) =
    some false := by decide
/-- V64. -/
theorem test_tx_ready : part (exec .envTxReady
    { opened with ser := { opened.ser with dre := false } }) (·.ser.dre) = some true := by decide

/-! ## The ring-buffer primitives: V1 to V10 -/

/-- V10. -/
theorem test_rb_init : part (exec (.rbInit .tx .isrHalf) (withTx opened32 [] 5 4 5 3))
    (fun t => (t.isr.txRptr, t.isr.txWview)) = some (0, 0) := by decide
/-- V7. -/
theorem test_rb_is_full : part (exec (.rbIsFull .tx .fg) (withTx opened [] 4 0 4 0))
    (·.ghost.rbAnswer) = some (.flag true) := by decide
/-- V8. -/
theorem test_rb_is_empty : part (exec (.rbIsEmpty .tx .fg) (withTx opened [] 5 5 5 5))
    (·.ghost.rbAnswer) = some (.flag true) := by decide
/-- V6. -/
theorem test_rb_occ : part (exec (.rbOcc .tx .fg) (withTx opened [] 1 6 1 6)) (·.ghost.rbAnswer) =
    some (.count 3) := by decide
/-- V3: the push wraps the pointer. -/
theorem test_rb_push : part (exec (.rbPush .tx 0xBB 0) (withTx opened [] 7 5 7 5))
    (fun t => (t.fg.txMem, t.fg.txWptr)) = some ([(3, 0xBB)], 0) := by decide
/-- R145: a push on a full buffer is ignored. -/
theorem test_rb_push_full : part (exec (.rbPush .tx 0xBB 0) (withTx opened [] 4 0 4 0))
    (fun t => (t.fg.txMem, t.fg.txWptr)) = some ([], 4) := by decide
/-- V5: the pop wraps the pointer. -/
theorem test_rb_pop : part (exec (.rbPop .tx) (withTx opened [(3, 0xCC)] 1 7 1 7))
    (fun t => (t.isr.txRptr, t.ghost.rbAnswer)) = some (0, .entry 0xCC none) := by decide

/-! ## The register level: V41, V47, V60 -/

/-- No bit caught at its old value. -/
def noMasks : Masks := ⟨0, 0, 0, 0, false, false⟩

/-- A line at the register level in the settling delay, `n` on the counter, the transmit-empty interrupt
still armed. -/
def settling (n : BitVec 16) : State :=
  let s := atRegister (inPhase opened .settle)
  { s with isr := { s.isr with settleCnt := n, dreie := true, enReqView := false } }

/-- V47: the fourth edge disables; ISR.DRE disarms itself on the first. -/
theorem test_settling : part (isrEdges noMasks 1 (settling 3))
      (fun t => (t.isr.settleCnt, t.isr.phase, t.ctrlWord)) = some (2, .settle, 0x7) ∧
    part (isrEdges noMasks 4 (settling 3)) (fun t => (t.ctrlWord, t.isr.phase, t.isr.enAck)) =
      some (0, .disabled, false) := by decide

/-- V41: a new pointer value leaves the chain on the edge at which ISR.DRE would disarm. -/
theorem test_arm_wins : part (isrEdge ⟨0, 0, true⟩ { atRegister (withTx opened [] 3 2 2 2) with
      isr := { (withTx opened [] 3 2 2 2).isr with
        dreie := true, qTxw := [gray 3], qRxr := [0], qReq := [true] } })
      (fun t => (t.isr.txWview, t.isr.dreie)) = some (3, true) := by decide

/-- V60 at edge e2: the view and the error view follow the tag of the new entry. -/
theorem test_chain_edge : part (fgEdge ⟨0, gray 1, true⟩
      { atRegister (withRx opened [(0, 0x41)] [(0, 1)] 1 0 0 0 0) with
        fg := { (withRx opened [(0, 0x41)] [(0, 1)] 1 0 0 0 0).fg with qRxw := [gray 1] } })
      (fun t => (t.fg.rxWview, t.fg.rxErrView)) = some (1, 0x01) := by decide

/-- R220: inside the OPEN window the chains shift and `rx_err_view` stays. -/
theorem test_open_window_edge : part (fgEdge ⟨0, 0, false⟩
      { atRegister (withRx (inFg closed .openInit) [] [(0, 1)] 1 0 0 0 5) with
        fg := { (withRx (inFg closed .openInit) [] [(0, 1)] 1 0 0 0 5).fg with qRxw := [gray 1] } })
      (fun t => (t.fg.rxWview, t.fg.rxErrView, t.fg.qRxw, t.fg.phase)) =
    some (1, 5, [0], .openWait) := by decide

/-! ## Witnesses: a state and operands that meet each statement's hypotheses -/

/-- An Open line with bytes on their way in both directions and three stale views. -/
def busy : State :=
  let s := withRx (withTx opened [(0, 0x11), (1, 0x22)] 2 1 2 0) [(0, 0x41), (1, 0x42)]
    [(0, 1), (1, 0)] 2 0 1 0 1
  { s with isr := { s.isr with dreie := true } }

/-- An Open line with both buffers full. -/
def fullBoth : State :=
  let s := withRx (withTx opened [(0, 1), (1, 2), (2, 3), (3, 4)] 4 0 4 0)
    [(0, 1), (1, 2), (2, 3), (3, 4)] [(0, 0), (1, 0), (2, 0), (3, 0)] 4 0 4 0 0
  { s with isr := { s.isr with dreie := true } }

/-- A CLOSE whose request the controller is about to note. -/
def closing : State :=
  let s := inFg opened .closeWait
  { s with
    fg := { s.fg with enReq := false }
    isr := { s.isr with enReqView := false } }

/-- A Closed line whose OPEN has just been accepted. -/
def opening : State :=
  let s := inFg closed .openInit
  { s with
    fg := { s.fg with baudHold := 0x67, portcfg := true }
    ghost := { s.ghost with portcfgCount := 1 } }

theorem test_inv_busy : Inv busy where
  level := by decide
  shape := by constructor <;> decide
  txWview := by decide
  txRview := by decide
  rxWview := by decide
  rxRview := by decide
  handshake := ⟨rfl, rfl, rfl, rfl, rfl⟩
  buffers := by unfold Buffers Held; decide
  drained := by decide
  dre := by decide
  armed := by decide

theorem test_inv_full : Inv fullBoth where
  level := by decide
  shape := by constructor <;> decide
  txWview := by decide
  txRview := by decide
  rxWview := by decide
  rxRview := by decide
  handshake := ⟨rfl, rfl, rfl, rfl, rfl⟩
  buffers := by unfold Buffers Held; decide
  drained := by decide
  dre := by decide
  armed := by decide

theorem test_inv_closing : Inv closing where
  level := by decide
  shape := by constructor <;> decide
  txWview := by decide
  txRview := by decide
  rxWview := by decide
  rxRview := by decide
  handshake := ⟨rfl, .inl ⟨rfl, rfl, rfl⟩⟩
  buffers := by unfold Buffers Held; decide
  drained := by decide
  dre := by decide
  armed := by decide

theorem test_inv_opening : Inv opening where
  level := by decide
  shape := by constructor <;> decide
  txWview := by decide
  txRview := by decide
  rxWview := by decide
  rxRview := by decide
  handshake := ⟨rfl, rfl, rfl, rfl, rfl⟩
  buffers := by unfold Buffers Held; decide
  drained := by decide
  dre := by decide
  armed := by decide

/-- The invariants do not look at the host, the schedule or the draw counter. -/
theorem inv_of_host {s : State} (h : Inv s) (a : HostSide) (l : List Event) :
    Inv { s with host := a, sched := l } :=
  { h with
    shape := { h.shape with }
    handshake := h.handshake
    buffers := h.buffers }

/-- `s` with a command presented and FG next. -/
def commanded (s : State) (c : CmdWord) : State :=
  { s with host := { s.host with cmdValid := true, cmd := c }, sched := [.fg] }

/-- `s` with the events `l` next. -/
def scheduled (s : State) (l : List Event) : State := { s with sched := l }

theorem test_hyp_encode : encode (.openLine 0xFFFF) = some (.cmd19, 0x1FFFF) ∧
    encode .isrRxc = some (.ev4, 12) ∧ encode .isrDre = some (.ev4, 3) := by decide

theorem test_hyp_decode_alike : decodeCmd 0x301AA#19 = decodeCmd 0x3FFAA#19 ∧
    decodeCmd 0x10000#19 ≠ decodeCmd 0x18000#19 := by decide

theorem test_hyp_step_fg :
    (commanded opened 0x50000).sched = [.fg] ∧ (commanded opened 0x50000).cfg.level = .agent ∧
    (commanded opened 0x50000).fg.phase = .idle ∧ (commanded opened 0x50000).host.cmdValid = true ∧
    (scheduled opened [.fg]).host.cmdValid = false ∧
    (scheduled (inFg fullBoth .sendWait) [.fg]).fg.phase = .sendWait ∧
    (scheduled opening [.fg]).fg.phase = .openInit ∧
    (scheduled (inFg opened .closeDrain) [.fg]).fg.phase = .closeDrain ∧
    (scheduled closing [.fg]).fg.phase = .closeWait := by decide

theorem test_hyp_step_agent : (scheduled busy [.txReady, .ctl]).sched = [.txReady, .ctl] ∧
    busy.sched = [] ∧ busy.cfg.level = .agent ∧ (atRegister busy).cfg.level = .register := by decide

theorem test_hyp_placed : decodeTableWord 19 0x7FFFF = some .rsvd7 ∧
    decodeTableWord 4 0b1111 = some .isrRxc ∧ decodeTableWord 8 0b0011 = some .isrDre ∧
    decodeTableWord 4 0b1100 = some .isrRxc ∧ decodeTableWord 9 0x1FF = some .nop := by decide

theorem test_hyp_operations : (0x0FFFF#19 : CmdWord).extractLsb' 16 3 = 0#3 ∧
    (0x7ABCD#19 : CmdWord).extractLsb' 16 3 = 7#3 ∧ closed.fg.phase = .idle ∧
    opened.fg.phase = .idle ∧ opened.fg.lineOpen = true ∧ closed.fg.lineOpen = false := by decide

theorem test_hyp_open : opening.fg.phase = .openInit ∧ (inFg closed .openWait).fg.phase = .openWait ∧
    (inFg closed .openWait).fg.enAckView = false ∧ (inFg opened .openWait).fg.enAckView = true := by
  decide

theorem test_hyp_close : (inFg opened .closeDrain).fg.txWptr = (inFg opened .closeDrain).fg.txRview ∧
    (inFg busy .closeDrain).fg.txWptr ≠ (inFg busy .closeDrain).fg.txRview ∧
    closing.fg.enAckView = true ∧ (inFg closed .closeWait).fg.enAckView = false := by decide

/-- At `occ = C - 1` a SEND pushes, at `occ = C` it waits. -/
theorem test_hyp_send : occ 2 (withTx opened [] 3 0 0 0).fg.txWptr
      (withTx opened [] 3 0 0 0).fg.txRview = 2 ^ 2 - 1 ∧
    occ 2 fullBoth.fg.txWptr fullBoth.fg.txRview = 2 ^ 2 ∧ fullBoth.fg.lineOpen = true ∧
    (inFg fullBoth .sendWait).fg.phase = .sendWait ∧
    occ 2 (inFg busy .sendWait).fg.txWptr (inFg busy .sendWait).fg.txRview ≠ 2 ^ 2 := by decide

theorem test_hyp_read : busy.fg.rxRptr ≠ busy.fg.rxWview ∧
    Mem.read (w := 8) busy.isr.rxMem (idx 2 busy.fg.rxRptr) = some 0x41 ∧
    Mem.read busy.isr.rxTag (idx 2 busy.fg.rxRptr) = some 1 ∧
    opened.fg.rxRptr = opened.fg.rxWview := by decide

theorem test_hyp_sendseq : ({ busy with host := { busy.host with pending := [0x30001] } } :
      State).host.pending = 0x30001 :: [] ∧ busy.host.cmdValid = false ∧
    busy.host.pending = [] ∧ busy.fg.phase = .idle ∧ closing.fg.phase ≠ .idle := by decide

theorem test_hyp_one_error : ∃ t, exec .read closed = .next t ∧ t.fg.rspValid = true ∧
    t.fg.rsp.getLsbD 13 = true := ⟨_, rfl, by decide, by decide⟩

theorem test_hyp_fg_phase : ∃ t, fgStep (inFg opened .openWait) = .next t ∧
    t.fg.lineOpen = true ∧ fgStep (commanded closed 0x10067) = .next
      ((commanded closed 0x10067).accept.openStart 0x67) := ⟨_, rfl, by decide, rfl⟩

/-- At `occ = C - 1` a byte is stored, at `occ = C` it is dropped. -/
theorem test_hyp_rxc : (withByte opened 0x41 0).ser.rxc = true ∧ opened.isr.rxcie = true ∧
    occ 2 (withRx opened [] [] 3 0 3 0 0).isr.rxWptr (withRx opened [] [] 3 0 3 0 0).isr.rxRview =
      2 ^ 2 - 1 ∧ occ 2 fullBoth.isr.rxWptr fullBoth.isr.rxRview = 2 ^ 2 := by decide

theorem test_hyp_dre : busy.ser.dre = true ∧ busy.isr.dreie = true ∧
    busy.isr.txRptr ≠ busy.isr.txWview ∧
    Mem.read (w := 8) busy.fg.txMem (idx 2 busy.isr.txRptr) = some 0x22 ∧
    (withTx busy [] 2 2 2 2).isr.txRptr = (withTx busy [] 2 2 2 2).isr.txWview := by decide

theorem test_hyp_ctl : beforeEnable.isr.phase = .disabled ∧ beforeEnable.isr.enReqView = true ∧
    closing.isr.phase = .enabled ∧ closing.isr.enReqView = false ∧
    (inPhase closing .waitDre).ser.dre = true ∧ (inPhase closing .settle).cfg.level = .agent ∧
    (atRegister (inPhase closing .settle)).isr.settleCnt.toNat = 0 := by decide

theorem test_hyp_settling : (settling 0xFFFF).cfg.level = .register ∧
    (settling 0xFFFF).isr.phase = .settle ∧ (settling 0xFFFF).isr.settleCnt.toNat = 65535 ∧
    TxDrained (settling 0xFFFF) ∧ (settling 0).isr.settleCnt.toNat = 0 ∧
    (∃ t, stepEvent (.clock .isr noMasks) (settling 0) = .next t ∧ t.isr.phase = .disabled) ∧
    ∃ t, stepEvent (.clock .isr noMasks) (settling 0xFFFF) = .next t ∧ t.isr.settleCnt = 0xFFFE := by
  refine ⟨rfl, rfl, by decide, by decide, by decide, ⟨_, rfl, by decide⟩, ⟨_, rfl, by decide⟩⟩

theorem test_hyp_isr_phase : Inv (inPhase closing .waitDre) ∧
    (∃ t, exec .ctlClose1 closing = .next t ∧ t.isr.phase ≠ closing.isr.phase) := by
  refine ⟨?_, _, rfl, by decide⟩
  have h := test_inv_closing
  exact { h with
    level := h.level
    shape := by constructor <;> decide
    handshake := ⟨rfl, .inr (.inl ⟨rfl, rfl, rfl, rfl⟩)⟩
    buffers := by unfold Buffers Held; decide
    dre := by decide
    armed := by decide }

/-- The nearest and the farthest value each view may take, with the pointer wrapped. -/
theorem test_hyp_crossings :
    mayAdvance 2 6 7 1 = true ∧ mayAdvance 2 6 1 1 = true ∧ mayAdvance 2 6 2 1 = false ∧
    mayAdvance 2 6 6 1 = false ∧ mayAdvance 2 6 8 1 = false ∧
    busy.fg.phase ≠ .openInit ∧ busy.fg.phase ≠ .openWait ∧ busy.isr.phase ≠ .disabled ∧
    busy.fg.txRview ≠ busy.isr.txRptr ∧ fullBoth.isr.rxRview = fullBoth.fg.rxRptr ∧
    (withRx busy [] [] 2 1 1 0 0).isr.rxRview ≠ (withRx busy [] [] 2 1 1 0 0).fg.rxRptr ∧
    (withTx busy [] 2 1 1 0).isr.txWview ≠ (withTx busy [] 2 1 1 0).fg.txWptr ∧
    busy.fg.rxWview ≠ busy.isr.rxWptr ∧
    Mem.read busy.isr.rxTag (((2 : Ptr).toNat + (2 ^ 3 - 1)) % 2 ^ 2) = some 0 := by decide

theorem test_hyp_views : Shape busy ∧
    (∃ t, exec (.syncTxr 1) busy = .next t ∧ t.fg.txRview = 1) ∧
    (∃ t, exec (.syncRxw 2) busy = .next t ∧ t.fg.rxWview = 2) ∧
    (∃ t, exec (.syncTxw 2) (withTx busy [] 2 1 1 0) = .next t ∧ t.isr.txWview = 2) ∧
    ∃ t, exec (.syncRxr 1) (withRx busy [] [] 2 1 1 0 0) = .next t ∧ t.isr.rxRview = 1 :=
  ⟨test_inv_busy.shape, ⟨_, rfl, by decide⟩, ⟨_, rfl, by decide⟩, ⟨_, rfl, by decide⟩,
    ⟨_, rfl, by decide⟩⟩

theorem test_hyp_environment : opened.isr.rxen = true ∧ opened.ser.rxc = false ∧
    closed.isr.rxen = false ∧ (withByte opened 0 0).ser.rxc = true ∧ opened.isr.txen = true ∧
    ({ opened with ser := { opened.ser with dre := false } } : State).ser.dre = false := by decide

theorem test_hyp_forbidden : closing.fg.phase = .closeWait ∧ opening.fg.phase = .openInit ∧
    (inFg fullBoth .sendWait).fg.phase = .sendWait ∧ opened.irqRx = false ∧
    opened.irqTx = false ∧ opened.isr.phase ≠ .disabled ∧ closed.isr.enReqView = false ∧
    opened.isr.enReqView = true ∧ opened.isr.phase ≠ .waitDre ∧ opened.isr.phase ≠ .settle ∧
    opened.isr.txWview = opened.fg.txWptr ∧ Opening opening ∧
    occ 2 busy.isr.txRptr busy.fg.txRview < occ 2 2 busy.fg.txRview ∧
    occ 2 busy.isr.rxWptr busy.fg.rxWview < occ 2 3 busy.fg.rxWview := by decide

theorem test_hyp_primitives : busy.isFull .tx .fg = false ∧ busy.isFull .rx .isr = false ∧
    fullBoth.isFull .tx (producer .tx) = true ∧ fullBoth.isFull .rx (producer .rx) = true ∧
    busy.isEmpty .tx .isr = false ∧ busy.isEmpty .rx .fg = false ∧
    opened.isEmpty .tx (consumer .tx) = true ∧ opened.isEmpty .rx (consumer .rx) = true ∧
    busy.bufN .rx ≤ 12 ∧ (busy.wOf .rx .isr).toNat < 2 ^ 3 ∧ (busy.rOf .rx .isr).toNat < 2 ^ 3 := by
  decide

theorem test_hyp_domains : (∃ t, exec (.send 0x33) busy = .next t) ∧
    (∃ t, exec .isrDre busy = .next t) ∧ (∃ t, exec (.syncTxw 2) busy = .next t) ∧
    (∃ t, exec (.syncTxr 1) busy = .next t) ∧ ∃ t, exec .envTxReady busy = .next t :=
  ⟨⟨_, rfl⟩, ⟨_, rfl⟩, ⟨_, rfl⟩, ⟨_, rfl⟩, ⟨_, rfl⟩⟩

theorem test_hyp_writers_storages :
    Writes (.send 0x33) (·.fg.txMem) ∧ Writes (.send 0x33) (·.fg.txWptr) ∧
    Writes .isrDre (·.isr.txRptr) ∧ Writes (.syncTxr 1) (·.fg.txRview) ∧
    Writes .read (·.fg.rxRptr) ∧ Writes (.syncRxw 2) (·.fg.rxWview) ∧
    Writes .isrRxc (fun s => (s.isr.rxMem, s.isr.rxTag)) ∧ Writes .isrRxc (·.isr.rxWptr) :=
  ⟨⟨busy, _, rfl, by decide⟩, ⟨busy, _, rfl, by decide⟩, ⟨busy, _, rfl, by decide⟩,
    ⟨busy, _, rfl, by decide⟩, ⟨busy, _, rfl, by decide⟩, ⟨busy, _, rfl, by decide⟩,
    ⟨withByte busy 1 0, _, rfl, by decide⟩, ⟨withByte busy 1 0, _, rfl, by decide⟩⟩

theorem test_hyp_writers_views :
    Writes (.syncTxw 2) (·.isr.txWview) ∧ Writes (.syncRxr 1) (·.isr.rxRview) :=
  ⟨⟨withTx busy [] 2 1 1 0, _, rfl, by decide⟩, ⟨withRx busy [] [] 2 1 1 0 0, _, rfl, by decide⟩⟩

theorem test_hyp_writers_registers :
    Writes .isrRxc (fun s => (s.isr.lastRxError, s.isr.rxDropPending)) ∧
    Writes (.syncRxw 2) (·.fg.rxErrView) ∧ Writes (.openLine 1) (·.fg.lineOpen) ∧
    Writes (.send 1) (fun s => (s.fg.phase, s.fg.cmdHold, s.fg.rsp, s.fg.rspValid)) ∧
    Writes (.openLine 1) (fun s => (s.fg.baudHold, s.fg.portcfg)) ∧
    Writes (.openLine 1) (·.fg.enReq) ∧ Writes .syncReq (·.isr.enReqView) ∧
    Writes .ctlEnable (·.isr.enAck) ∧ Writes .syncAck (·.fg.enAckView) :=
  ⟨⟨withByte busy 1 1, _, rfl, by decide⟩, ⟨busy, _, rfl, by decide⟩,
    ⟨{ inFg closed .openWait with fg := { (inFg closed .openWait).fg with enAckView := true } }, _,
      rfl, by decide⟩,
    ⟨fullBoth, _, rfl, by decide⟩, ⟨closed, _, rfl, by decide⟩, ⟨opening, _, rfl, by decide⟩,
    ⟨{ closed with fg := { closed.fg with enReq := true } }, _, rfl, by decide⟩,
    ⟨beforeEnable, _, rfl, by decide⟩,
    ⟨{ closed with isr := { closed.isr with enAck := true } }, _, rfl, by decide⟩⟩

theorem test_hyp_writers_control :
    Writes .ctlClose1 (fun s => (s.isr.phase, s.isr.settleCnt)) ∧
    Writes .ctlEnable (fun s => (s.isr.rxen, s.isr.txen, s.isr.rxcie)) ∧
    Writes .ctlEnable (·.isr.baud) ∧ Writes (.syncTxw 2) (·.isr.dreie) :=
  ⟨⟨closing, _, rfl, by decide⟩, ⟨beforeEnable, _, rfl, by decide⟩,
    ⟨beforeEnable, _, rfl, by decide⟩, ⟨withTx opened [] 2 0 0 0, _, rfl, by decide⟩⟩

theorem test_hyp_step_next : ∃ t, step (scheduled busy [.handler .dre]) = .next t ∧
    t.ghost.txSink = [0x22] := ⟨_, rfl, by decide⟩

/-- A register-level step that meets the hypotheses of the step invariant. -/
theorem test_hyp_step_register : Shape (scheduled (atRegister busy) [.clock .isr ⟨0, 0, 0, 0, false, false⟩]) ∧
    ∃ t, step (scheduled (atRegister busy) [.clock .isr ⟨0, 0, 0, 0, false, false⟩]) = .next t :=
  ⟨by constructor <;> decide, _, rfl⟩

theorem test_hyp_lines : ∃ ls, Lines.stepAt [closed, scheduled busy [.fg]] 1 = .next ls ∧
    ls.length = 2 := ⟨_, rfl, by decide⟩

/-- A device of two lines, of which one takes a step. -/
theorem test_hyp_device : DeviceParams.wellFormed { numLines := 2, line := cfg } = true ∧
    Lines.wellFormed { numLines := 2, line := cfg } [closed, scheduled busy [.fg]] = true ∧
    closed.sched = [] ∧ (Lines.reset { numLines := 2, line := cfg }).map (·.stream) = [0, 1] ∧
    ∃ ls, Lines.stepAt [closed, scheduled busy [.fg]] 1 = .next ls :=
  ⟨by decide, by decide, rfl, by decide, _, rfl⟩

theorem test_hyp_reset : cfg.wellFormed = true ∧ cfg.level = .agent := by decide

theorem test_hyp_opinions : ¬Opening busy ∧ busy.isFull .tx (producer .tx) = false ∧
    0 < busy.occOf .tx (consumer .tx) ∧ busy.isEmpty .rx (consumer .rx) = false ∧
    fullBoth.isFull .rx (consumer .rx) = true ∧ opened.isEmpty .tx (producer .tx) = true := by decide

/-- A SEND that completes, for the transmit order. -/
theorem test_hyp_transmit : Inv (commanded busy 0x30033) ∧
    (∃ t, step (commanded busy 0x30033) = .next t ∧ ¬Opening t) ∧
    ¬Opening (commanded busy 0x30033) ∧ (commanded busy 0x30033).nextEvent ≠ .reset ∧
    completedSend (commanded busy 0x30033) = some 0x33 :=
  ⟨inv_of_host test_inv_busy _ _, ⟨_, rfl, by decide⟩, by decide, by decide, by decide⟩

/-- A READ that returns a byte, an `ISR.RXC` that stores one, and a step that is neither. -/
theorem test_hyp_receive : Inv (commanded busy 0x40000) ∧ ReadsByte (commanded busy 0x40000) ∧
    (∃ t, step (commanded busy 0x40000) = .next t ∧ ¬Opening t) ∧
    StoresByte (scheduled (withByte busy 1 0) [.handler .rxc]) ∧
    ¬ReadsByte (scheduled busy [.handler .dre]) ∧ ¬StoresByte (scheduled busy [.handler .dre]) :=
  ⟨inv_of_host test_inv_busy _ _, by decide, ⟨_, rfl, by decide⟩, by decide, by decide, by decide⟩

theorem test_hyp_settled : Settled opened ∧ ¬Settled busy ∧ busy.isr.phase ≠ .disabled := by decide

theorem test_hyp_gray : (8191 : Ptr).toNat < 2 ^ (12 + 1) ∧ (1 : Ptr).toNat < 2 ^ (0 + 1) ∧
    (4 : Ptr).toNat < 2 ^ (1 + 2) := by decide

theorem test_hyp_sample : (0b011#13 : Ptr) = 0b001#13 ^^^ (1#13 <<< 1) ∧
    sampleBits 0b010 0b001 0b011 = 0b001 ∧ sampleBits 0 0b001 0b011 = 0b011 := by decide

/-- An edge at which a command is accepted and all three chains deliver. -/
theorem test_hyp_fg_edge : (∃ t, fgStep (commanded busy 0x50000) = .next t ∧ ¬Opening t) ∧
    ¬Opening (commanded busy 0x50000) ∧
    mayAdvance 2 busy.fg.txRview (ungray (chainShift 0 [gray 1]).2) busy.isr.txRptr = true ∧
    mayAdvance 2 busy.fg.rxWview (ungray (chainShift 0 [gray 2]).2) busy.isr.rxWptr = true ∧
    (chainShift true [true]).2 = busy.isr.enAck :=
  ⟨⟨_, rfl, by decide⟩, by decide, by decide, by decide, by decide⟩

/-- The edges of OPEN at the register level: accepted with a new `rx_wview` arriving, requested, held, and
completed. -/
theorem test_hyp_open_edges :
    (commanded closed 0x10067).fg.phase = .idle ∧ (commanded closed 0x10067).fg.lineOpen = false ∧
    decodeCmd (commanded closed 0x10067).host.cmd = .openLine 0x67 ∧
    (∃ a, fgStep (commanded busy 0x40000) = .next a) ∧ ¬Opening busy ∧
    ungray (chainShift 0 [gray 2]).2 ≠ busy.fg.rxWview ∧
    (Mem.read busy.isr.rxTag (idx busy.cfg.nRx (ptrPred busy.cfg.nRx 2))).map (·.setWidth 8) =
      some (0 : Byte) ∧
    opening.fg.phase = .openInit ∧ (inFg closed .openWait).fg.enAckView = false ∧
    (inFg opened .openWait).fg.enAckView = true ∧ Opening (inFg opened .openWait) :=
  ⟨rfl, rfl, by decide, ⟨_, rfl⟩, by decide, by decide, by decide, rfl, rfl, rfl, by decide⟩

theorem test_hyp_isr_edge : ∃ t, isrEdge ⟨gray 2, 0, true⟩ (atRegister busy) = .next t ∧
    t.isr.txRptr = 2 := ⟨_, rfl, by decide⟩

/-- `busy` at the register level, its chains carrying the values of the pointers. -/
def edgy : State :=
  let s := atRegister busy
  { s with
    fg := { s.fg with qTxr := [gray 1], qRxw := [gray 2], qAck := [true] }
    isr := { s.isr with qTxw := [gray 2], qRxr := [gray 0], qReq := [true] } }

/-- A new write pointer leaves its chain on an edge on which ISR.DRE disarms, and nothing turns CTL's
guard. -/
theorem test_hyp_isr_steps : ∃ a b, exec .isrRxc (withTx edgy [] 2 1 1 0) = .next a ∧
    exec .isrDre a = .next b ∧
    mayAdvance 2 1 (ungray (chainShift 0 edgy.isr.qTxw).2) 2 = true ∧
    ungray (chainShift 0 edgy.isr.qRxr).2 = edgy.isr.rxRview ∧
    (chainShift true edgy.isr.qReq).2 = edgy.isr.enReqView ∧ edgy.isr.phase = .enabled ∧
    edgy.isr.enReqView = true ∧ edgy.cfg.level = .register :=
  ⟨_, _, rfl, rfl, by decide, by decide, by decide, rfl, rfl, rfl⟩

/-- The cases the clauses on one `clk_isr` edge tell apart: CTL enabling, disabling, or neither. -/
theorem test_hyp_isr_cases :
    (∃ t, isrEdge ⟨0, 0, true⟩ (atRegister beforeEnable) = .next t ∧ t.isr.phase = .enabled) ∧
    (∃ t, isrEdge ⟨0, 0, false⟩ (settling 0) = .next t ∧ t.isr.phase = .disabled) ∧
    ∃ t, isrEdge ⟨0, 0, true⟩ edgy = .next t ∧ t.isr.phase = .enabled :=
  ⟨⟨_, rfl, by decide⟩, ⟨_, rfl, by decide⟩, ⟨_, rfl, by decide⟩⟩

/-- An edge of both clocks on which SEND pushes while ISR.DRE hands a byte over. -/
theorem test_hyp_both_edges : (commanded edgy 0x30033).txWr = true ∧
    ∃ f i a u, fgEdge edgy.fgSource (commanded edgy 0x30033) = .next f ∧
      isrEdge edgy.isrSource (commanded edgy 0x30033) = .next i ∧
      fgEdge ⟨gray 2, gray 2, true⟩ (commanded edgy 0x30033) = .next a ∧
      isrEdge ⟨gray 3, gray 0, true⟩ (commanded edgy 0x30033) = .next u ∧
      f.fg.txWptr = 3 ∧ i.isr.txRptr = 2 ∧
      Mem.read (w := 8) a.fg.txMem 1 = Mem.read (w := 8) edgy.fg.txMem 1 :=
  ⟨by decide, _, _, _, _, rfl, rfl, rfl, rfl, by decide, by decide, by decide⟩

/-- Two stages, two edges. -/
theorem test_hyp_stages : edgy.cfg.stages = 2 ∧ edgy.cfg.level = .register ∧ Shape edgy ∧
    ∃ t, isrEdges noMasks 2 edgy = .next t ∧ t.isr.enReqView = true :=
  ⟨rfl, rfl, by constructor <;> decide, _, rfl, by decide⟩

/-! ### A fair run on which an OPEN completes -/

/-- The state an event leads to. -/
def after (e : Event) (s : State) : State :=
  match stepEvent e s with
  | .next t => t
  | _ => s

/-- The events of the run: the handshake's, then each agent's in turn for ever. -/
def fairEvent : Nat → Event
  | 0 => .fg
  | 1 => .sync .req 0
  | 2 => .ctl
  | 3 => .sync .ack 0
  | 4 => .fg
  | 5 => .fg
  | n + 6 =>
    match n % 5 with
    | 0 => .fg
    | 1 => .handler .rxc
    | 2 => .handler .dre
    | 3 => .ctl
    | _ => .txReady

/-- The state once the events of `l` have been taken, the first of them first. -/
def afterAll (l : List Event) : State := l.foldl (fun s e => after e s) opening

/-- The line once the OPEN has completed and its response strobe has ended. -/
def settledOpen : State := afterAll [.fg, .sync .req 0, .ctl, .sync .ack 0, .fg, .fg]

/-- The state after the first `n` events: from the sixth on the line is Open and idle and no event
changes anything. -/
def fairState : Nat → State
  | 0 => opening
  | 1 => afterAll [.fg]
  | 2 => afterAll [.fg, .sync .req 0]
  | 3 => afterAll [.fg, .sync .req 0, .ctl]
  | 4 => afterAll [.fg, .sync .req 0, .ctl, .sync .ack 0]
  | 5 => afterAll [.fg, .sync .req 0, .ctl, .sync .ack 0, .fg]
  | _ + 6 => settledOpen

theorem fair_steps (n : Nat) : stepEvent (fairEvent n) (fairState n) = .next (fairState (n + 1)) := by
  match n with
  | 0 | 1 | 2 | 3 | 4 | 5 => rfl
  | n + 6 =>
    show stepEvent (match n % 5 with
      | 0 => .fg
      | 1 => .handler .rxc
      | 2 => .handler .dre
      | 3 => .ctl
      | _ => .txReady) settledOpen = .next settledOpen
    split <;> rfl

/-- The run. -/
def fairRun : Run where
  states := fairState
  events := fairEvent
  steps := fair_steps

theorem fairState_late (n : Nat) : fairState (n + 6) = fairState 6 := rfl

/-- An event of the cycle comes again and again. -/
theorem fair_weak (guard : State → Prop) (takes : Event → Prop) (k : Nat)
    (h : ∀ n, n % 5 = k % 5 → takes (fairEvent (n + 6))) : fairRun.WeaklyFair guard takes := by
  intro n _
  refine ⟨5 * n + k + 6, by omega, ?_⟩
  exact h (5 * n + k) (by omega)

/-- A crossing that has settled by the sixth step catches up. -/
theorem fair_catches {α : Type} (enabled : State → Prop) (original view : State → α)
    (h : view (fairState 6) = original (fairState 6)) :
    fairRun.CatchesUp enabled original view := by
  intro n v hv
  refine ⟨n + 6, by omega, ?_⟩
  show view (fairState (n + 6)) = v
  have := (hv (n + 6) (by omega)).2
  rw [← this]
  show view (fairState (n + 6)) = original (fairState (n + 6))
  rw [fairState_late]
  exact h

theorem test_fair : fairRun.Fair where
  txw := fair_catches _ _ _ (by decide)
  txr := fair_catches _ _ _ (by decide)
  rxw := fair_catches _ _ _ (by decide)
  rxr := fair_catches _ _ _ (by decide)
  req := fair_catches _ _ _ (by decide)
  ack := fair_catches _ _ _ (by decide)
  fg := fair_weak _ _ 0 (fun n h => by simp only [fairEvent, h])
  rxc := fair_weak _ _ 1 (fun n h => by simp only [fairEvent, h])
  dre := fair_weak _ _ 2 (fun n h => by simp only [fairEvent, h])
  ctl := fair_weak _ _ 3 (fun n h => by simp only [fairEvent, h])
  txReady := fair_weak _ _ 4 (fun n h => by simp only [fairEvent, h])

theorem test_hyp_fair_open : Inv (fairRun.states 0) ∧ Opening (fairRun.states 0) ∧
    ∀ m, fairRun.events m ≠ .reset := by
  refine ⟨test_inv_opening, by decide, fun m => ?_⟩
  show fairEvent m ≠ .reset
  unfold fairEvent
  split <;> first | decide | (split <;> decide)

end Sys2Proof.Tests
end

section
/-! PROOFS: no step faults (00_scope.md R13, 20_memory.md R86). Which operations can stop at all, what the
invariant says of the entries they read, and that every event answers a next state. -/

namespace Sys2Proof.Machine

variable {s : State}

/-! ### Which operations answer a next state -/

theorem ite_answers {c : Prop} [Decidable c] {a b : Host.Outcome State Fault Refusal}
    (ha : c → ∃ t, a = .next t) (hb : ¬c → ∃ t, b = .next t) :
    ∃ t, (if c then a else b) = .next t := by
  by_cases hc : c
  · rw [if_pos hc]; exact ha hc
  · rw [if_neg hc]; exact hb hc

theorem atLevel_answers {l : Level} {o : Host.Outcome State Fault Refusal}
    (h : s.cfg.level = l → ∃ t, o = .next t) : ∃ t, atLevel l s o = .next t :=
  ite_answers h fun _ => ⟨s, rfl⟩

/-- The operations that read a storage entry (20_memory.md R86): every other one answers in any state. -/
def readsEntry : Instr → Prop
  | .read | .isrDre | .rbPop _ | .syncRxw _ => True
  | _ => False

theorem atOnce_answers (s : State) (v : RspWord) : ∃ t, s.atOnce v = .next t :=
  ite_answers (fun _ => ⟨_, rfl⟩) fun _ => ⟨_, rfl⟩

theorem execOpenLine_answers (baud : BitVec 16) (s : State) : ∃ t, execOpenLine baud s = .next t := by
  unfold execOpenLine
  cases s.fg.phase with
  | idle | openWait => exact ite_answers (fun _ => ⟨_, rfl⟩) fun _ => ⟨_, rfl⟩
  | openInit | sendWait | closeDrain | closeWait => exact ⟨_, rfl⟩

theorem execCloseLine_answers (s : State) : ∃ t, execCloseLine s = .next t := by
  unfold execCloseLine
  cases s.fg.phase with
  | idle | closeDrain | closeWait => exact ite_answers (fun _ => ⟨_, rfl⟩) fun _ => ⟨_, rfl⟩
  | sendWait | openInit | openWait => exact ⟨_, rfl⟩

theorem execSend_answers (b : Byte) (s : State) : ∃ t, execSend b s = .next t := by
  unfold execSend
  cases s.fg.phase with
  | idle =>
    exact ite_answers (fun _ => ⟨_, rfl⟩) fun _ => ite_answers (fun _ => ⟨_, rfl⟩) fun _ => ⟨_, rfl⟩
  | sendWait => exact ite_answers (fun _ => ⟨_, rfl⟩) fun _ => ⟨_, rfl⟩
  | openInit | openWait | closeDrain | closeWait => exact ⟨_, rfl⟩

theorem execRbInit_answers (b : Buf) (p : InitPart) (s : State) : ∃ t, execRbInit b p s = .next t := by
  cases p <;> exact ⟨_, rfl⟩

theorem execRbPush_answers (b : Buf) (d : Byte) (g : Tag) (s : State) :
    ∃ t, execRbPush b d g s = .next t :=
  ite_answers (fun _ => ⟨_, rfl⟩) fun _ => by cases b <;> exact ⟨_, rfl⟩

theorem execCtlClose3_answers (s : State) : ∃ t, execCtlClose3 s = .next t :=
  ite_answers (fun _ => ⟨_, rfl⟩) fun _ => by
    cases s.cfg.level with
    | agent => exact ⟨_, rfl⟩
    | register => exact ite_answers (fun _ => ⟨_, rfl⟩) fun _ => ⟨_, rfl⟩

theorem exec_answers_of_not_readsEntry {i : Instr} (h : ¬readsEntry i) (s : State) :
    ∃ t, exec i s = .next t := by
  cases i with
  | read | isrDre | rbPop | syncRxw => exact absurd trivial h
  | nop | txstat | rxstat | rsvd7 => exact atOnce_answers s _
  | openLine baud => exact execOpenLine_answers baud s
  | closeLine => exact execCloseLine_answers s
  | send b => exact execSend_answers b s
  | rbInit b p => exact execRbInit_answers b p s
  | rbPush b d g => exact execRbPush_answers b d g s
  | ctlClose3 => exact execCtlClose3_answers s
  | isrRxc | ctlEnable | ctlClose1 | ctlClose2 | syncTxw | syncTxr | syncRxr | envRxArrive | envTxReady =>
    exact ite_answers (fun _ => ⟨_, rfl⟩) fun _ => ⟨_, rfl⟩
  | sendseq | rbIsFull | rbIsEmpty | rbOcc | syncReq | syncAck => exact ⟨_, rfl⟩

/-- `READ` answers if the entry at the foreground's read pointer, where it reads one, has been written. -/
theorem execRead_answers
    (h : s.fg.phase = .idle → s.fg.lineOpen = true → s.rxEmptyFg = false →
      (Mem.read (w := 8) s.isr.rxMem (idx s.cfg.nRx s.fg.rxRptr)).isSome = true ∧
      (Mem.read s.isr.rxTag (idx s.cfg.nRx s.fg.rxRptr)).isSome = true) :
    ∃ t, execRead s = .next t := by
  refine ite_answers (fun _ => ⟨_, rfl⟩) fun hidle => ?_
  refine ite_answers (fun _ => ⟨_, rfl⟩) fun hopen => ?_
  refine ite_answers (fun _ => ⟨_, rfl⟩) fun hempty => ?_
  obtain ⟨hmem, htag⟩ := h (by simpa [State.cmdReady] using hidle) (by simpa using hopen)
    (by simpa using hempty)
  obtain ⟨b, hb⟩ := Option.isSome_iff_exists.1 hmem
  obtain ⟨g, hg⟩ := Option.isSome_iff_exists.1 htag
  rw [popRx_ok.2 ⟨hb, hg, rfl⟩]
  exact ⟨_, rfl⟩

/-- `ISR.DRE` answers if the entry at the transmit read pointer, where it reads one, has been written. -/
theorem execIsrDre_answers
    (h : s.irqTx = true → s.txEmptyIsr = false →
      (Mem.read (w := 8) s.fg.txMem (idx s.cfg.nTx s.isr.txRptr)).isSome = true) :
    ∃ t, execIsrDre s = .next t := by
  refine ite_answers (fun _ => ⟨_, rfl⟩) fun hirq => ?_
  refine ite_answers (fun _ => ⟨_, rfl⟩) fun hempty => ?_
  obtain ⟨b, hb⟩ := Option.isSome_iff_exists.1 (h (by simpa using hirq) (by simpa using hempty))
  rw [popTx_ok.2 ⟨hb, rfl⟩]
  exact ⟨_, rfl⟩

/-- `SYNC.RXW` answers if the tag of the newest entry it makes visible has been written. -/
theorem execSyncRxw_answers {x : Ptr}
    (h : s.fgCrossingsOn = true → mayAdvance s.cfg.nRx s.fg.rxWview x s.isr.rxWptr = true →
      (Mem.read s.isr.rxTag (idx s.cfg.nRx (ptrPred s.cfg.nRx x))).isSome = true) :
    ∃ t, execSyncRxw x s = .next t := by
  refine ite_answers (fun hc => ?_) fun _ => ⟨_, rfl⟩
  obtain ⟨hon, hadv⟩ := Bool.and_eq_true_iff.1 hc
  obtain ⟨g, hg⟩ := Option.isSome_iff_exists.1 (h hon hadv)
  rw [newestTag_ok.2 hg]
  exact ⟨_, rfl⟩

/-! ### Which operations FG and CTL take -/

theorem decodeCmd_isFgCommand (c : CmdWord) : Safety.isFgCommand (decodeCmd c) := by
  unfold decodeCmd
  split <;> trivial

theorem eq_read_of_isFgCommand_of_readsEntry {i : Instr} (hf : Safety.isFgCommand i)
    (hr : readsEntry i) : i = .read := by
  cases i with
  | read => rfl
  | isrDre | rbPop | syncRxw => exact hf.elim
  | _ => exact hr.elim

/-- Only commands that do not read an entry are taken in several steps (41_fg_commands.md R180). -/
theorem inProgress_not_readsEntry {i : Instr} (h : s.inProgress = some i) : ¬readsEntry i := by
  unfold State.inProgress at h
  cases hp : s.fg.phase <;> simp only [hp, Option.some.injEq, reduceCtorEq] at h <;> subst h <;> exact id

theorem ctlInstr_not_readsEntry (p : IsrPhase) : ¬readsEntry (ctlInstr p) := by
  cases p <;> exact id

end Sys2Proof.Machine

namespace Sys2Proof.Safety

open Sys2Proof.Machine

variable {s t : State}

/-! ### What the invariant says of the entries a step reads -/

theorem Shape.of_same_parts (h : Shape s) (hcfg : t.cfg = s.cfg) (hfg : t.fg = s.fg)
    (hisr : t.isr = s.isr) (hser : t.ser = s.ser) : Shape t := by
  cases s; cases t
  subst hcfg hfg hisr hser
  exact { h with }

/-- The invariant speaks of the registers and the serial unit alone: the host's side, the ghosts and the
schedule may be anything. -/
theorem Inv.of_same_parts (h : Inv s) (hcfg : t.cfg = s.cfg) (hfg : t.fg = s.fg)
    (hisr : t.isr = s.isr) (hser : t.ser = s.ser) : Inv t := by
  have hshape := h.shape.of_same_parts hcfg hfg hisr hser
  cases s; cases t
  subst hcfg hfg hisr hser
  exact { h with shape := hshape }

theorem Inv.advance (h : Inv s) : Inv s.advance := by
  obtain ⟨l, n, hadv⟩ := advance_cases s
  rw [hadv]
  exact h.of_same_parts rfl rfl rfl rfl

theorem Inv.accept (h : Inv s) : Inv s.accept := h.of_same_parts rfl rfl rfl rfl

theorem Inv.nTx_le (h : Inv s) : s.cfg.nTx ≤ 12 := by
  have := h.shape.params
  simp only [Params.wellFormed, Bool.and_eq_true, decide_eq_true_eq] at this
  exact this.1.1

theorem Inv.nRx_le (h : Inv s) : s.cfg.nRx ≤ 12 := by
  have := h.shape.params
  simp only [Params.wellFormed, Bool.and_eq_true, decide_eq_true_eq] at this
  exact this.1.2

/-- Outside OPEN both buffers are in order and every entry between their pointers has been written
(10_state.md R24, 20_memory.md R86). -/
theorem Inv.buffers_of_not_opening (h : Inv s) (ho : ¬Opening s) :
    (RingOrdered s.cfg.nTx s.fg.txWptr s.isr.txRptr s.isr.txWview s.fg.txRview ∧
     RingOrdered s.cfg.nRx s.isr.rxWptr s.fg.rxRptr s.fg.rxWview s.isr.rxRview) ∧
    Held (k := 8) s.fg.txMem s.cfg.nTx s.fg.txWptr s.isr.txRptr ∧
    Held (k := 8) s.isr.rxMem s.cfg.nRx s.isr.rxWptr s.fg.rxRptr ∧
    Held s.isr.rxTag s.cfg.nRx s.isr.rxWptr s.fg.rxRptr := by
  obtain ⟨hinit, hwait⟩ := not_or.1 ho
  have hb := h.buffers
  rwa [Buffers, if_neg (by simp [hinit, hwait]), if_neg hwait] at hb

/-- While OPEN waits after `CTL.ENABLE`, the transmit buffer is empty in the interrupt domain's opinion. -/
theorem Inv.txEmptyIsr_of_opening (h : Inv s) (ho : Opening s) (hon : s.isr.phase ≠ .disabled) :
    s.txEmptyIsr = true := by
  rcases ho with hinit | hwait
  · have hh := h.handshake
    cases hl : s.fg.lineOpen <;> simp [Handshake, hinit, hl] at hh
    exact absurd hh.2.2.1 hon
  · have hb := h.buffers
    rw [Buffers, if_neg (by simp [hwait, hon]), if_pos hwait] at hb
    obtain ⟨⟨-, hr, hwv⟩, -⟩ := hb
    simp [State.txEmptyIsr, State.isEmpty, State.wOf, State.rOf, hr, hwv]

/-- The transmit-empty interrupt is armed only while the interrupt domain is on
(42_isr_handlers.md R202 (d)). -/
theorem Inv.not_disabled_of_irqTx (h : Inv s) (hirq : s.irqTx = true) : s.isr.phase ≠ .disabled := by
  obtain ⟨-, harmed⟩ := Bool.and_eq_true_iff.1 hirq
  have hrxen : s.isr.rxen = true := h.shape.txen ▸ h.shape.dreie harmed
  simpa [h.shape.rxen] using hrxen

/-- A consumer whose view is ahead of its read pointer has an entry to read. -/
theorem RingOrdered.count_ne {n : Nat} {w r wv rv : Ptr} (hn : n ≤ 12)
    (hw : w.toNat < 2 ^ (n + 1)) (hr : r.toNat < 2 ^ (n + 1)) (hwv : wv.toNat < 2 ^ (n + 1))
    (h : RingOrdered n w r wv rv) (hne : wv ≠ r) : w ≠ r := by
  have hcount := ring_count hn hw hr hwv h
  have hpos : occ n wv r ≠ 0 := fun e => hne ((occ_eq_zero hn hwv hr).1 e)
  exact fun e => by simp [(occ_eq_zero hn hw hr).2 e] at hcount; omega

/-- The newest entry a view makes visible when it advances is one the buffer holds. -/
theorem Held.newest {n k : Nat} {m : Mem k} {w r wv rv x : Ptr} (hn : n ≤ 12)
    (hw : w.toNat < 2 ^ (n + 1)) (hr : r.toNat < 2 ^ (n + 1)) (hwv : wv.toNat < 2 ^ (n + 1))
    (h : Held m n w r) (hord : RingOrdered n w r wv rv) (hadv : mayAdvance n wv x w = true) :
    (Mem.read m (idx n (ptrPred n x))).isSome = true := by
  obtain ⟨hx, -, hne, hle⟩ := mayAdvance_iff.1 hadv
  have hcount := ring_count hn hw hr hwv hord
  have hlt := occ_lt n w r
  have hpos : occ n x wv ≠ 0 := fun e => hne ((occ_eq_zero hn hx hwv).1 e)
  have htrans := occ_trans hn hr hwv hx (by omega)
  exact h.before hn hx hr (by omega) (by omega)

theorem Inv.tx_head_written (h : Inv s) (hirq : s.irqTx = true) (hne : s.txEmptyIsr = false) :
    (Mem.read (w := 8) s.fg.txMem (idx s.cfg.nTx s.isr.txRptr)).isSome = true := by
  have hclosed : ¬Opening s := fun ho => by
    simp [h.txEmptyIsr_of_opening ho (h.not_disabled_of_irqTx hirq)] at hne
  obtain ⟨⟨hord, -⟩, hheld, -⟩ := h.buffers_of_not_opening hclosed
  have hview : s.isr.txWview ≠ s.isr.txRptr := of_decide_eq_false hne
  exact hheld.head h.nTx_le h.shape.txWptr h.shape.txRptr
    (hord.count_ne h.nTx_le h.shape.txWptr h.shape.txRptr h.txWview hview)

theorem Inv.rx_head_written (h : Inv s) (hidle : s.fg.phase = .idle) (hne : s.rxEmptyFg = false) :
    (Mem.read (w := 8) s.isr.rxMem (idx s.cfg.nRx s.fg.rxRptr)).isSome = true ∧
    (Mem.read s.isr.rxTag (idx s.cfg.nRx s.fg.rxRptr)).isSome = true := by
  obtain ⟨⟨-, hord⟩, -, hmem, htag⟩ := h.buffers_of_not_opening (by simp [hidle])
  have hview : s.fg.rxWview ≠ s.fg.rxRptr := of_decide_eq_false hne
  have hcount := hord.count_ne h.nRx_le h.shape.rxWptr h.shape.rxRptr h.rxWview hview
  exact ⟨hmem.head h.nRx_le h.shape.rxWptr h.shape.rxRptr hcount,
    htag.head h.nRx_le h.shape.rxWptr h.shape.rxRptr hcount⟩

theorem Inv.rx_newest_written {x : Ptr} (h : Inv s) (hon : s.fgCrossingsOn = true)
    (hadv : mayAdvance s.cfg.nRx s.fg.rxWview x s.isr.rxWptr = true) :
    (Mem.read s.isr.rxTag (idx s.cfg.nRx (ptrPred s.cfg.nRx x))).isSome = true := by
  have hclosed : ¬Opening s := by simpa [State.fgCrossingsOn] using hon
  obtain ⟨⟨-, hord⟩, -, -, htag⟩ := h.buffers_of_not_opening hclosed
  exact htag.newest h.nRx_le h.shape.rxWptr h.shape.rxRptr h.rxWview hord hadv

/-! ### No step faults -/

theorem Inv.execRead_answers (h : Inv s) : ∃ t, execRead s = .next t :=
  Machine.execRead_answers fun hidle _ hne => h.rx_head_written hidle hne

theorem Inv.execIsrDre_answers (h : Inv s) : ∃ t, execIsrDre s = .next t :=
  Machine.execIsrDre_answers h.tx_head_written

theorem Inv.fgStep_answers (h : Inv s) : ∃ t, fgStep s = .next t := by
  unfold fgStep
  cases hp : s.inProgress with
  | some i => exact exec_answers_of_not_readsEntry (inProgress_not_readsEntry hp) s
  | none =>
    refine ite_answers (fun _ => ?_) fun _ => ⟨_, rfl⟩
    by_cases hr : readsEntry (decodeCmd s.host.cmd)
    · rw [eq_read_of_isFgCommand_of_readsEntry (decodeCmd_isFgCommand _) hr]
      exact h.accept.execRead_answers
    · exact exec_answers_of_not_readsEntry hr _

theorem Inv.handlerStep_answers (h : Inv s) (hd : Handler) : ∃ t, handlerStep hd s = .next t := by
  rw [handlerStep_eq]
  cases hd with
  | rxc => exact exec_answers_of_not_readsEntry (i := .isrRxc) id s
  | dre => exact h.execIsrDre_answers

theorem Inv.sync_answers (h : Inv s) (c : Crossing) (x : Ptr) :
    ∃ t, exec (syncInstr c x) s = .next t := by
  cases c with
  | rxw => exact execSyncRxw_answers h.rx_newest_written
  | txw | txr | rxr | req | ack => exact exec_answers_of_not_readsEntry id s

theorem Inv.stepEvent_answers (h : Inv s) (e : Event) : ∃ t, stepEvent e s = .next t := by
  cases e with
  | host | reset => exact ⟨_, rfl⟩
  | hostSeq bs => exact exec_answers_of_not_readsEntry (i := .sendseq bs) id s
  | rxArrive d e => exact exec_answers_of_not_readsEntry (i := .envRxArrive d e) id s
  | txReady => exact exec_answers_of_not_readsEntry (i := .envTxReady) id s
  | fg => exact atLevel_answers fun _ => h.fgStep_answers
  | handler hd => exact atLevel_answers fun _ => h.handlerStep_answers hd
  | ctl => exact atLevel_answers fun _ => exec_answers_of_not_readsEntry (ctlInstr_not_readsEntry _) s
  | sync c x => exact atLevel_answers fun _ => h.sync_answers c x
  | clock => exact atLevel_answers fun hl => by simp [h.level] at hl

/-- Settles O48: an operation can stop only on an entry it reads, and the invariant says of each entry a
scheduled operation reads that it has been written. -/
theorem noStepFaults : Obligations.NoStepFaults :=
  fun s h => h.advance.stepEvent_answers s.nextEvent

end Sys2Proof.Safety
end

section
/-! PROOFS: no step changes the parameters (00_scope.md R6), nor the stream its free draws come from. -/

namespace Sys2Proof.Machine

variable {s t u : State}

/-- `s` and `t` are states of one line: the same parameters and the same stream of draws. -/
abbrev SameLine (s t : State) : Prop := t.cfg = s.cfg ∧ t.stream = s.stream

theorem SameLine.trans (h : SameLine s t) (h' : SameLine t u) : SameLine s u :=
  ⟨h'.1.trans h.1, h'.2.trans h.2⟩

/-- Two steps of one line, one after the other, are steps of one line. -/
theorem sameLine_of_andThen {o : Host.Outcome State Fault Refusal}
    {k : State → Host.Outcome State Fault Refusal} (h : andThen o k = .next t)
    (ho : ∀ a, o = .next a → SameLine s a)
    (hk : ∀ a, k a = .next t → SameLine a t) : SameLine s t := by
  obtain ⟨a, ha, hat⟩ := andThen_next.1 h
  exact (ho a ha).trans (hk a hat)

theorem sameLine_of_next (h : Host.Outcome.next (φ := Fault) (ρ := Refusal) u = .next t)
    (hu : SameLine s u) : SameLine s t := next_inj.1 h ▸ hu

theorem atOnce_sameLine {v : RspWord} (h : s.atOnce v = .next t) : SameLine s t := by
  rcases atOnce_next h with ⟨-, rfl⟩ | ⟨-, rfl⟩ <;> exact ⟨rfl, rfl⟩

theorem execSend_sameLine {b : Byte} (h : execSend b s = .next t) : SameLine s t := by
  rcases execSend_next h with ⟨-, -, rfl⟩ | ⟨-, -, -, rfl⟩ | ⟨-, -, -, rfl⟩ | ⟨-, -, rfl⟩ |
    ⟨-, -, rfl⟩ | ⟨-, -, rfl⟩ <;> exact ⟨rfl, rfl⟩

theorem execOpenLine_sameLine {baud : BitVec 16} (h : execOpenLine baud s = .next t) :
    SameLine s t := by
  rcases execOpenLine_next h with ⟨-, -, rfl⟩ | ⟨-, -, rfl⟩ | ⟨-, rfl⟩ | ⟨-, -, rfl⟩ |
    ⟨-, -, rfl⟩ | ⟨-, -, -, rfl⟩ <;> exact ⟨rfl, rfl⟩

theorem execCloseLine_sameLine (h : execCloseLine s = .next t) : SameLine s t := by
  rcases execCloseLine_next h with ⟨-, -, rfl⟩ | ⟨-, -, rfl⟩ | ⟨-, -, rfl⟩ | ⟨-, -, rfl⟩ |
    ⟨-, -, rfl⟩ | ⟨-, -, rfl⟩ | ⟨-, -, -, rfl⟩ <;> exact ⟨rfl, rfl⟩

theorem execRead_sameLine (h : execRead s = .next t) : SameLine s t := by
  rcases execRead_next h with ⟨-, rfl⟩ | ⟨-, -, rfl⟩ | ⟨-, -, -, rfl⟩ |
    ⟨-, -, -, _, _, -, -, rfl⟩ <;> exact ⟨rfl, rfl⟩

theorem execIsrRxc_sameLine (h : execIsrRxc s = .next t) : SameLine s t := by
  rcases execIsrRxc_next h with ⟨-, rfl⟩ | ⟨-, -, rfl⟩ | ⟨-, -, rfl⟩ <;> exact ⟨rfl, rfl⟩

theorem execIsrDre_sameLine (h : execIsrDre s = .next t) : SameLine s t := by
  rcases execIsrDre_next h with ⟨-, rfl⟩ | ⟨-, -, rfl⟩ | ⟨-, -, _, -, rfl⟩ <;> exact ⟨rfl, rfl⟩

theorem execRbPush_sameLine {b : Buf} {d : Byte} {g : Tag} (h : execRbPush b d g s = .next t) :
    SameLine s t := by
  rcases execRbPush_next h with ⟨-, rfl⟩ | ⟨-, ⟨-, rfl⟩ | ⟨-, rfl⟩⟩ <;> exact ⟨rfl, rfl⟩

theorem execRbPop_sameLine {b : Buf} (h : execRbPop b s = .next t) : SameLine s t := by
  rcases execRbPop_next h with ⟨-, rfl⟩ | ⟨-, ⟨-, _, _, hpop, rfl⟩ | ⟨-, _, _, _, hpop, rfl⟩⟩
  · exact ⟨rfl, rfl⟩
  · obtain ⟨-, rfl⟩ := popTx_ok.1 hpop
    exact ⟨rfl, rfl⟩
  · obtain ⟨-, -, rfl⟩ := popRx_ok.1 hpop
    exact ⟨rfl, rfl⟩

theorem execRbInit_sameLine {b : Buf} {p : InitPart} (h : execRbInit b p s = .next t) :
    SameLine s t := by
  cases p <;> cases b <;> exact sameLine_of_next h ⟨rfl, rfl⟩

theorem execCtlClose3_sameLine (h : execCtlClose3 s = .next t) : SameLine s t := by
  rcases execCtlClose3_next h with ⟨-, rfl⟩ | ⟨-, -, -, rfl⟩ | ⟨-, -, rfl⟩ <;> exact ⟨rfl, rfl⟩

theorem exec_sameLine {i : Instr} (h : exec i s = .next t) : SameLine s t := by
  cases i with
  | nop | txstat | rxstat | rsvd7 => exact atOnce_sameLine h
  | openLine baud => exact execOpenLine_sameLine h
  | closeLine => exact execCloseLine_sameLine h
  | send b => exact execSend_sameLine h
  | read => exact execRead_sameLine h
  | isrRxc => exact execIsrRxc_sameLine h
  | isrDre => exact execIsrDre_sameLine h
  | rbInit b p => exact execRbInit_sameLine h
  | rbPush b d g => exact execRbPush_sameLine h
  | rbPop b => exact execRbPop_sameLine h
  | ctlEnable => rcases execCtlEnable_next h with ⟨-, -, rfl⟩ | ⟨-, rfl⟩ <;> exact ⟨rfl, rfl⟩
  | ctlClose1 => rcases execCtlClose1_next h with ⟨-, -, rfl⟩ | ⟨-, rfl⟩ <;> exact ⟨rfl, rfl⟩
  | ctlClose2 => rcases execCtlClose2_next h with ⟨-, -, rfl⟩ | ⟨-, rfl⟩ <;> exact ⟨rfl, rfl⟩
  | ctlClose3 => exact execCtlClose3_sameLine h
  | syncTxw x => rcases execSyncTxw_next h with ⟨-, -, rfl⟩ | ⟨-, rfl⟩ <;> exact ⟨rfl, rfl⟩
  | syncTxr x => rcases execSyncTxr_next h with ⟨-, -, rfl⟩ | ⟨-, rfl⟩ <;> exact ⟨rfl, rfl⟩
  | syncRxw x => rcases execSyncRxw_next h with ⟨-, -, _, -, rfl⟩ | ⟨-, rfl⟩ <;> exact ⟨rfl, rfl⟩
  | syncRxr x => rcases execSyncRxr_next h with ⟨-, -, rfl⟩ | ⟨-, rfl⟩ <;> exact ⟨rfl, rfl⟩
  | envRxArrive d e => rcases execEnvRxArrive_next h with ⟨-, -, rfl⟩ | ⟨-, rfl⟩ <;> exact ⟨rfl, rfl⟩
  | envTxReady => rcases execEnvTxReady_next h with ⟨-, -, rfl⟩ | ⟨-, rfl⟩ <;> exact ⟨rfl, rfl⟩
  | sendseq | rbIsFull | rbIsEmpty | rbOcc | syncReq | syncAck =>
    exact sameLine_of_next h ⟨rfl, rfl⟩

theorem fgStep_sameLine (h : fgStep s = .next t) : SameLine s t := by
  rcases fgStep_next h with ⟨_, -, hexec⟩ | ⟨-, -, hexec⟩ | ⟨-, -, rfl⟩
  · exact exec_sameLine hexec
  · exact (exec_sameLine hexec : SameLine s.accept t)
  · exact ⟨rfl, rfl⟩

theorem handlerStep_sameLine {hd : Handler} (h : handlerStep hd s = .next t) :
    SameLine s t := by
  rw [handlerStep_eq] at h
  cases hd <;> exact exec_sameLine h

/-! ### The clock edges of the register level -/

/-- The chains into the foreground domain write that domain's registers alone (43_cdc_sync.md R220). -/
theorem fgChains_next {g : FgSample} {old : State} (h : fgChains g old s = .next t) :
    ∃ r : FgRegs, t = { s with fg := r } := by
  simp only [fgChains] at h
  split at h
  · exact ⟨_, (next_inj.1 h).symm⟩
  · split at h
    · cases h
    · exact ⟨_, (next_inj.1 h).symm⟩

theorem fgChains_sameLine {g : FgSample} {old : State} (h : fgChains g old s = .next t) :
    SameLine s t := by
  obtain ⟨_, rfl⟩ := fgChains_next h
  exact ⟨rfl, rfl⟩

theorem ctlOnEdge_sameLine (old s : State) : SameLine s (ctlOnEdge old s) := by
  rcases ctlOnEdge_cases old s with ⟨-, -, h⟩ | ⟨-, -, h⟩ | ⟨-, -, h⟩ | ⟨-, -, h⟩ | ⟨-, -, h⟩ |
    ⟨-, -, h⟩ | ⟨-, -, h⟩ | ⟨-, -, h⟩ <;> rw [h] <;> exact ⟨rfl, rfl⟩

theorem fgEdge_sameLine {g : FgSample} (h : fgEdge g s = .next t) : SameLine s t :=
  sameLine_of_andThen h (fun _ => fgStep_sameLine) fun _ => fgChains_sameLine

theorem isrEdge_sameLine {g : IsrSample} (h : isrEdge g s = .next t) : SameLine s t := by
  obtain ⟨a, b, ha, hb, rfl⟩ := isrEdge_next h
  have hhandlers : SameLine s b := (exec_sameLine ha).trans (exec_sameLine hb)
  have hchains : SameLine b (isrChains g s b) := ⟨rfl, rfl⟩
  exact (hhandlers.trans hchains).trans (ctlOnEdge_sameLine _ _)

/-- Of an edge of both clocks, the last two runs start from the state itself: the first two only give the
values a changing source is caught at (43_cdc_sync.md R220). -/
theorem bothEdges_sameLine {m : Masks} (h : bothEdges m s = .next t) : SameLine s t := by
  obtain ⟨f, -, h⟩ := andThen_next.1 h
  obtain ⟨i, -, h⟩ := andThen_next.1 h
  exact sameLine_of_andThen h (fun _ => fgEdge_sameLine) fun _ => isrEdge_sameLine

theorem clockStep_sameLine {k : ClockEdge} {m : Masks} (h : clockStep k m s = .next t) :
    SameLine s t := by
  cases k with
  | fg => exact fgEdge_sameLine h
  | isr => exact isrEdge_sameLine h
  | both => exact bothEdges_sameLine h

/-! ### A step of the machine -/

theorem atLevel_sameLine {l : Level} {o : Host.Outcome State Fault Refusal}
    (h : atLevel l s o = .next t) (ho : o = .next t → SameLine s t) : SameLine s t := by
  unfold atLevel at h
  split at h
  · exact ho h
  · exact sameLine_of_next h ⟨rfl, rfl⟩

theorem hostPresent_sameLine (w : CmdWord) (s : State) : SameLine s (hostPresent w s) := by
  obtain ⟨_, h⟩ := hostPresent_cases w s
  exact h ▸ ⟨rfl, rfl⟩

theorem advance_sameLine (s : State) : SameLine s s.advance := by
  obtain ⟨_, _, h⟩ := advance_cases s
  exact h ▸ ⟨rfl, rfl⟩

theorem stepEvent_sameLine {e : Event} (h : stepEvent e s = .next t) : SameLine s t := by
  cases e with
  | host w => exact sameLine_of_next h (hostPresent_sameLine w s)
  | hostSeq bs => exact exec_sameLine (i := .sendseq bs) h
  | rxArrive d e => exact exec_sameLine (i := .envRxArrive d e) h
  | txReady => exact exec_sameLine (i := .envTxReady) h
  | fg => exact atLevel_sameLine h fgStep_sameLine
  | handler => exact atLevel_sameLine h handlerStep_sameLine
  | ctl | sync => exact atLevel_sameLine h exec_sameLine
  | clock => exact atLevel_sameLine h clockStep_sameLine
  | reset => exact sameLine_of_next h ⟨rfl, rfl⟩

theorem step_sameLine (h : step s = .next t) : SameLine s t :=
  (advance_sameLine s).trans (stepEvent_sameLine h)

/-- Settles O40: whatever the event, a step's two states are of one line, which fixes the parameters. -/
theorem parametersConstant : Obligations.ParametersConstant :=
  fun _ _ h => (step_sameLine h).1

end Sys2Proof.Machine
end

section
/-! PROOFS: a step runs the operation of the agent the schedule names (00_scope.md R12). -/

namespace Sys2Proof.Machine

variable {s : State}

theorem nextEvent_of_sched {e : Event} {rest : List Event} (h : s.sched = e :: rest) :
    s.nextEvent = e := by
  simp only [State.nextEvent, h]

theorem nextEvent_of_no_sched (h : s.sched = []) :
    s.nextEvent = Config.freeEvent s.stream s.tick := by
  simp only [State.nextEvent, h]

theorem advance_of_sched {e : Event} {rest : List Event} (h : s.sched = e :: rest) :
    s.advance = { s with sched := rest } := by
  simp only [State.advance, h]

theorem advance_of_no_sched (h : s.sched = []) : s.advance = { s with tick := s.tick + 1 } := by
  simp only [State.advance, h]

/-- At its own level an event's operation is taken. -/
theorem atLevel_of_eq {l : Level} {o : Host.Outcome State Fault Refusal} (h : s.cfg.level = l) :
    atLevel l s o = o := if_pos h

/-- Settles O6: `step` looks up the schedule once, and an event of the level in force is that agent's
operation by definition. -/
theorem stepRunsScheduledAgent : Obligations.StepRunsScheduledAgent := by
  refine ⟨fun s e rest h => ?_, fun s h => ?_, fun s =>
    ⟨fun _ _ => rfl, rfl, fun _ => rfl, fun _ => rfl, fun hagent => ?_, fun hregister k m => ?_⟩⟩
  · rw [step, nextEvent_of_sched h, advance_of_sched h]
  · rw [step, nextEvent_of_no_sched h, advance_of_no_sched h]
  · refine ⟨fun _ => atLevel_of_eq hagent, (atLevel_of_eq hagent).trans ?_, fun _ => ?_⟩
    · cases s.isr.phase <;> rfl
    · exact ⟨atLevel_of_eq hagent, atLevel_of_eq hagent, atLevel_of_eq hagent,
        atLevel_of_eq hagent, atLevel_of_eq hagent, atLevel_of_eq hagent⟩
  · exact atLevel_of_eq hregister

end Sys2Proof.Machine
end

section
/-! PROOFS: every step at either level keeps the shape invariant (10_state.md R21 to R33,
44_environment.md R246). -/

namespace Sys2Proof.Safety

open Sys2Proof.Machine

variable {s t : State}

/-! ### Parts of the shape -/

theorem Shape.nTx_le (h : Shape s) : s.cfg.nTx ≤ 12 := by
  have := h.params
  simp only [Params.wellFormed, Bool.and_eq_true, decide_eq_true_eq] at this
  exact this.1.1

theorem Shape.nRx_le (h : Shape s) : s.cfg.nRx ≤ 12 := by
  have := h.params
  simp only [Params.wellFormed, Bool.and_eq_true, decide_eq_true_eq] at this
  exact this.1.2

theorem Shape.rxen_of_not_disabled (h : Shape s) (hp : s.isr.phase ≠ .disabled) :
    s.isr.rxen = true := by
  rw [h.rxen]; exact decide_eq_true hp

/-- A pointer at 0 is an `(N+1)`-bit value. -/
theorem ptr_zero_lt (n : Nat) : (0 : Ptr).toNat < 2 ^ (n + 1) := Nat.two_pow_pos _

theorem errByte_zero_lt : (0 : Byte).toNat < 16 := by decide

/-- A tag in a byte leaves the upper four bits 0 (10_state.md R27, R28). -/
theorem tag_setWidth_lt (g : Tag) : (g.setWidth 8).toNat < 16 := by
  rw [BitVec.toNat_setWidth]
  exact Nat.lt_of_le_of_lt (Nat.mod_le _ _) g.isLt

theorem StorageOk.write {n k : Nat} {m : Mem k} (h : StorageOk m n) (p : Ptr) (b : BitVec k) :
    StorageOk (Mem.write m (idx n p) b) n :=
  ⟨Mem.wf_write h.1 _ b, Mem.range_write h.2 (idx_lt n p) b⟩

/-! ### The named updates -/

theorem Shape.respond (h : Shape s) (v : RspWord) : Shape (s.respond v) := { h with }

theorem Shape.fgHeld (h : Shape s) : Shape s.fgHeld := { h with }

theorem Shape.initFgPtr (h : Shape s) (b : Buf) : Shape (s.initFgPtr b) := by
  cases b with
  | tx => exact { h with txWptr := ptr_zero_lt _ }
  | rx => exact { h with rxRptr := ptr_zero_lt _ }

theorem Shape.initFgView (h : Shape s) (b : Buf) : Shape (s.initFgView b) := by
  cases b with
  | tx => exact { h with qTxr := List.length_replicate }
  | rx => exact { h with qRxw := List.length_replicate }

theorem Shape.initIsr (h : Shape s) (b : Buf) : Shape (s.initIsr b) := by
  cases b with
  | tx => exact { h with txRptr := ptr_zero_lt _, qTxw := List.length_replicate }
  | rx => exact { h with rxWptr := ptr_zero_lt _, qRxr := List.length_replicate }

theorem Shape.pushTx (h : Shape s) (b : Byte) : Shape (s.pushTx b) :=
  { h with
    txMem := h.txMem.write _ b
    txWptr := ptrInc_lt h.nTx_le h.txWptr }

theorem Shape.pushRx (h : Shape s) (d : Byte) (g : Tag) : Shape (s.pushRx d g) :=
  { h with
    rxMem := h.rxMem.write _ d
    rxTag := h.rxTag.write _ g
    rxWptr := ptrInc_lt h.nRx_le h.rxWptr }

theorem Shape.popTx {b : Byte} (h : Shape s) (hpop : s.popTx = .ok (b, t)) : Shape t := by
  obtain ⟨-, rfl⟩ := popTx_ok.1 hpop
  exact { h with txRptr := ptrInc_lt h.nTx_le h.txRptr }

theorem Shape.popRx {b : Byte} {g : Tag} (h : Shape s) (hpop : s.popRx = .ok (b, g, t)) :
    Shape t := by
  obtain ⟨-, -, rfl⟩ := popRx_ok.1 hpop
  exact { h with rxRptr := ptrInc_lt h.nRx_le h.rxRptr }

theorem Shape.openStart (h : Shape s) (baud : BitVec 16) : Shape (s.openStart baud) :=
  { h with txWptr := ptr_zero_lt _, rxRptr := ptr_zero_lt _ }

theorem Shape.openRequest (h : Shape s) : Shape s.openRequest := { h with }

theorem Shape.openFinish (h : Shape s) : Shape s.openFinish :=
  { h with
    errView := errByte_zero_lt
    qTxr := List.length_replicate
    qRxw := List.length_replicate }

theorem Shape.closeStart (h : Shape s) : Shape s.closeStart := { h with }

theorem Shape.closeRequest (h : Shape s) : Shape s.closeRequest := { h with }

theorem Shape.closeFinish (h : Shape s) : Shape s.closeFinish := { h with }

theorem Shape.sendHold (h : Shape s) (b : Byte) : Shape (s.sendHold b) := { h with }

theorem Shape.accept (h : Shape s) : Shape s.accept := { h with }

theorem Shape.takeRx (h : Shape s) : Shape s.takeRx := { h with rxc := nofun }

theorem Shape.storeRx (h : Shape s) : Shape s.storeRx :=
  { h.pushRx s.ser.rxData (rxTagOf s.isr.rxDropPending s.ser.rxErr) with
    lastError := tag_setWidth_lt _ }

theorem Shape.dropRx (h : Shape s) : Shape s.dropRx := { h with lastError := tag_setWidth_lt _ }

theorem Shape.enableIsr (h : Shape s) : Shape s.enableIsr :=
  { (h.initIsr .tx).initIsr .rx with
    lastError := errByte_zero_lt
    rxen := rfl, txen := rfl, rxcie := rfl, dreie := fun _ => rfl, rxc := fun _ => rfl }

theorem Shape.noteClose (h : Shape s) (hp : s.isr.phase ≠ .disabled) : Shape s.noteClose :=
  { h with rxen := h.rxen_of_not_disabled hp }

theorem Shape.startSettle (h : Shape s) (hp : s.isr.phase ≠ .disabled) : Shape s.startSettle :=
  { h with rxen := h.rxen_of_not_disabled hp }

theorem Shape.settleTick (h : Shape s) : Shape s.settleTick := { h with }

theorem Shape.disableIsr (h : Shape s) : Shape s.disableIsr :=
  { h with rxen := rfl, txen := rfl, rxcie := rfl, dreie := nofun, rxc := nofun }

/-- Reset asks of the state before it only what reset keeps: the parameters and the storages
(70_reset_and_hazards.md R303). -/
theorem shape_hardReset (hparams : s.cfg.wellFormed = true)
    (htx : StorageOk (k := 8) s.fg.txMem s.cfg.nTx) (hrx : StorageOk (k := 8) s.isr.rxMem s.cfg.nRx)
    (htag : StorageOk s.isr.rxTag s.cfg.nRx) : Shape s.hardReset where
  params := hparams
  txMem := htx
  rxMem := hrx
  rxTag := htag
  txWptr := ptr_zero_lt _
  txRptr := ptr_zero_lt _
  rxWptr := ptr_zero_lt _
  rxRptr := ptr_zero_lt _
  errView := errByte_zero_lt
  lastError := errByte_zero_lt
  rxen := rfl
  txen := rfl
  rxcie := rfl
  dreie := nofun
  rxc := nofun
  qTxr := List.length_replicate
  qRxw := List.length_replicate
  qAck := List.length_replicate
  qTxw := List.length_replicate
  qRxr := List.length_replicate
  qReq := List.length_replicate

theorem Shape.hardReset (h : Shape s) : Shape s.hardReset :=
  shape_hardReset h.params h.txMem h.rxMem h.rxTag

/-! ### The operations -/

theorem atOnce_keeps_shape {v : RspWord} (h : Shape s) (he : s.atOnce v = .next t) : Shape t := by
  rcases atOnce_next he with ⟨-, rfl⟩ | ⟨-, rfl⟩
  · exact h.respond v
  · exact h

theorem execOpenLine_keeps_shape {baud : BitVec 16} (h : Shape s)
    (he : execOpenLine baud s = .next t) : Shape t := by
  rcases execOpenLine_next he with ⟨-, -, rfl⟩ | ⟨-, -, rfl⟩ | ⟨-, rfl⟩ | ⟨-, -, rfl⟩ |
    ⟨-, -, rfl⟩ | ⟨-, -, -, rfl⟩
  · exact h.respond _
  · exact h.openStart baud
  · exact h.openRequest
  · exact h.openFinish
  · exact h.fgHeld
  · exact h

theorem execCloseLine_keeps_shape (h : Shape s) (he : execCloseLine s = .next t) : Shape t := by
  rcases execCloseLine_next he with ⟨-, -, rfl⟩ | ⟨-, -, rfl⟩ | ⟨-, -, rfl⟩ | ⟨-, -, rfl⟩ |
    ⟨-, -, rfl⟩ | ⟨-, -, rfl⟩ | ⟨-, -, -, rfl⟩
  · exact h.respond _
  · exact h.closeStart
  · exact h.closeRequest
  · exact h.fgHeld
  · exact h.closeFinish
  · exact h.fgHeld
  · exact h

theorem execSend_keeps_shape {b : Byte} (h : Shape s) (he : execSend b s = .next t) : Shape t := by
  rcases execSend_next he with ⟨-, -, rfl⟩ | ⟨-, -, -, rfl⟩ | ⟨-, -, -, rfl⟩ | ⟨-, -, rfl⟩ |
    ⟨-, -, rfl⟩ | ⟨-, -, rfl⟩
  · exact h.respond _
  · exact h.sendHold b
  · exact (h.pushTx b).respond _
  · exact h.fgHeld
  · exact (h.pushTx _).respond _
  · exact h

theorem execRead_keeps_shape (h : Shape s) (he : execRead s = .next t) : Shape t := by
  rcases execRead_next he with ⟨-, rfl⟩ | ⟨-, -, rfl⟩ | ⟨-, -, -, rfl⟩ |
    ⟨-, -, -, b, g, hb, hg, rfl⟩
  · exact h
  · exact h.respond _
  · exact h.respond _
  · exact (h.popRx (popRx_ok.2 ⟨hb, hg, rfl⟩)).respond _

theorem execIsrRxc_keeps_shape (h : Shape s) (he : execIsrRxc s = .next t) : Shape t := by
  rcases execIsrRxc_next he with ⟨-, rfl⟩ | ⟨-, -, rfl⟩ | ⟨-, -, rfl⟩
  · exact h
  · exact h.dropRx.takeRx
  · exact h.storeRx.takeRx

theorem execIsrDre_keeps_shape (h : Shape s) (he : execIsrDre s = .next t) : Shape t := by
  rcases execIsrDre_next he with ⟨-, rfl⟩ | ⟨-, -, rfl⟩ | ⟨-, -, b, hb, rfl⟩
  · exact h
  · exact { h with dreie := nofun }
  · exact { h.popTx (popTx_ok.2 ⟨hb, rfl⟩) with }

theorem execRbInit_keeps_shape {b : Buf} {p : InitPart} (h : Shape s)
    (he : execRbInit b p s = .next t) : Shape t := by
  cases p with
  | fgAccept => exact next_inj.1 he ▸ h.initFgPtr b
  | fgComplete => exact next_inj.1 he ▸ h.initFgView b
  | isrHalf => exact next_inj.1 he ▸ h.initIsr b

theorem execRbPush_keeps_shape {b : Buf} {d : Byte} {g : Tag} (h : Shape s)
    (he : execRbPush b d g s = .next t) : Shape t := by
  rcases execRbPush_next he with ⟨-, rfl⟩ | ⟨-, ⟨-, rfl⟩ | ⟨-, rfl⟩⟩
  · exact h
  · exact h.pushTx d
  · exact h.pushRx d g

theorem execRbPop_keeps_shape {b : Buf} (h : Shape s) (he : execRbPop b s = .next t) : Shape t := by
  rcases execRbPop_next he with ⟨-, rfl⟩ | ⟨-, ⟨-, d, a, hpop, rfl⟩ | ⟨-, d, g, a, hpop, rfl⟩⟩
  · exact h
  · exact { h.popTx hpop with }
  · exact { h.popRx hpop with }

theorem execCtlEnable_keeps_shape (h : Shape s) (he : execCtlEnable s = .next t) : Shape t := by
  rcases execCtlEnable_next he with ⟨-, -, rfl⟩ | ⟨-, rfl⟩
  · exact h.enableIsr
  · exact h

theorem execCtlClose1_keeps_shape (h : Shape s) (he : execCtlClose1 s = .next t) : Shape t := by
  rcases execCtlClose1_next he with ⟨hp, -, rfl⟩ | ⟨-, rfl⟩
  · exact h.noteClose (by simp [hp])
  · exact h

theorem execCtlClose2_keeps_shape (h : Shape s) (he : execCtlClose2 s = .next t) : Shape t := by
  rcases execCtlClose2_next he with ⟨hp, -, rfl⟩ | ⟨-, rfl⟩
  · exact h.startSettle (by simp [hp])
  · exact h

theorem execCtlClose3_keeps_shape (h : Shape s) (he : execCtlClose3 s = .next t) : Shape t := by
  rcases execCtlClose3_next he with ⟨-, rfl⟩ | ⟨-, -, -, rfl⟩ | ⟨-, -, rfl⟩
  · exact h
  · exact h.settleTick
  · exact h.disableIsr

theorem execSyncTxw_keeps_shape {x : Ptr} (h : Shape s) (he : execSyncTxw x s = .next t) :
    Shape t := by
  rcases execSyncTxw_next he with ⟨hp, -, rfl⟩ | ⟨-, rfl⟩
  · exact { h with dreie := fun _ => h.txen.trans (h.rxen_of_not_disabled hp) }
  · exact h

theorem execSyncTxr_keeps_shape {x : Ptr} (h : Shape s) (he : execSyncTxr x s = .next t) :
    Shape t := by
  rcases execSyncTxr_next he with ⟨-, -, rfl⟩ | ⟨-, rfl⟩
  · exact { h with }
  · exact h

theorem execSyncRxw_keeps_shape {x : Ptr} (h : Shape s) (he : execSyncRxw x s = .next t) :
    Shape t := by
  rcases execSyncRxw_next he with ⟨-, -, g, -, rfl⟩ | ⟨-, rfl⟩
  · exact { h with errView := tag_setWidth_lt g }
  · exact h

theorem execSyncRxr_keeps_shape {x : Ptr} (h : Shape s) (he : execSyncRxr x s = .next t) :
    Shape t := by
  rcases execSyncRxr_next he with ⟨-, -, rfl⟩ | ⟨-, rfl⟩
  · exact { h with }
  · exact h

theorem execEnvRxArrive_keeps_shape {d : Byte} {e : BitVec 3} (h : Shape s)
    (he : execEnvRxArrive d e s = .next t) : Shape t := by
  rcases execEnvRxArrive_next he with ⟨hon, -, rfl⟩ | ⟨-, rfl⟩
  · exact { h with rxc := fun _ => hon }
  · exact h

theorem execEnvTxReady_keeps_shape (h : Shape s) (he : execEnvTxReady s = .next t) : Shape t := by
  rcases execEnvTxReady_next he with ⟨-, -, rfl⟩ | ⟨-, rfl⟩
  · exact { h with }
  · exact h

theorem exec_keeps_shape {i : Instr} (h : Shape s) (he : exec i s = .next t) : Shape t := by
  cases i with
  | nop | txstat | rxstat | rsvd7 => exact atOnce_keeps_shape h he
  | openLine baud => exact execOpenLine_keeps_shape h he
  | closeLine => exact execCloseLine_keeps_shape h he
  | send b => exact execSend_keeps_shape h he
  | read => exact execRead_keeps_shape h he
  | isrRxc => exact execIsrRxc_keeps_shape h he
  | isrDre => exact execIsrDre_keeps_shape h he
  | rbInit b p => exact execRbInit_keeps_shape h he
  | rbPush b d g => exact execRbPush_keeps_shape h he
  | rbPop b => exact execRbPop_keeps_shape h he
  | ctlEnable => exact execCtlEnable_keeps_shape h he
  | ctlClose1 => exact execCtlClose1_keeps_shape h he
  | ctlClose2 => exact execCtlClose2_keeps_shape h he
  | ctlClose3 => exact execCtlClose3_keeps_shape h he
  | syncTxw x => exact execSyncTxw_keeps_shape h he
  | syncTxr x => exact execSyncTxr_keeps_shape h he
  | syncRxw x => exact execSyncRxw_keeps_shape h he
  | syncRxr x => exact execSyncRxr_keeps_shape h he
  | envRxArrive d e => exact execEnvRxArrive_keeps_shape h he
  | envTxReady => exact execEnvTxReady_keeps_shape h he
  | sendseq | rbIsFull | rbIsEmpty | rbOcc | syncReq | syncAck =>
    obtain rfl := next_inj.1 he
    exact { h with }

theorem fgStep_keeps_shape (h : Shape s) (he : fgStep s = .next t) : Shape t := by
  rcases fgStep_next he with ⟨_, -, hexec⟩ | ⟨-, -, hexec⟩ | ⟨-, -, rfl⟩
  · exact exec_keeps_shape h hexec
  · exact exec_keeps_shape h.accept hexec
  · exact h.fgHeld

theorem handlerStep_keeps_shape {hd : Handler} (h : Shape s) (he : handlerStep hd s = .next t) :
    Shape t := by
  rw [handlerStep_eq] at he
  cases hd <;> exact exec_keeps_shape h he

/-! ### The clock edges of the register level -/

/-- `rx_err_view` on a `clk_fg` edge is the old one or a tag, so its upper four bits stay 0
(10_state.md R28). -/
theorem errViewAt_lt {x : Ptr} {e : Byte} (h : Shape s) (he : s.errViewAt x = .ok e) :
    e.toNat < 16 := by
  rw [errViewAt_ok] at he
  split at he
  · exact he ▸ h.errView
  · obtain ⟨g, -, rfl⟩ := Option.map_eq_some_iff.1 he
    exact tag_setWidth_lt g

theorem fgChains_keeps_shape {g : FgSample} {old : State} (hold : Shape old) (h : Shape s)
    (hcfg : s.cfg = old.cfg) (he : fgChains g old s = .next t) : Shape t := by
  have hack : (chainShift g.ack old.fg.qAck).1.length = s.cfg.stages - 1 := by
    rw [chainShift_length, hold.qAck, hcfg]
  simp only [fgChains] at he
  split at he
  · obtain rfl := next_inj.1 he
    exact { h with qAck := hack }
  · split at he
    · cases he
    · next e herr =>
      obtain rfl := next_inj.1 he
      exact { h with
        errView := errViewAt_lt hold herr
        qTxr := by rw [chainShift_length, hold.qTxr, hcfg]
        qRxw := by rw [chainShift_length, hold.qRxw, hcfg]
        qAck := hack }

theorem fgEdge_keeps_shape {g : FgSample} (h : Shape s) (he : fgEdge g s = .next t) : Shape t := by
  obtain ⟨a, hstep, hchains⟩ := fgEdge_next he
  exact fgChains_keeps_shape h (fgStep_keeps_shape h hstep) (fgStep_sameLine hstep).1 hchains

/-- The handlers leave CTL's phase alone (42_isr_handlers.md R209). -/
theorem handlers_keep_phase {a b : State} (ha : exec .isrRxc s = .next a)
    (hb : exec .isrDre a = .next b) : b.isr.phase = s.isr.phase := by
  have hrxc : a.isr.phase = s.isr.phase := by
    rcases execIsrRxc_next ha with ⟨-, rfl⟩ | ⟨-, -, rfl⟩ | ⟨-, -, rfl⟩ <;> rfl
  have hdre : b.isr.phase = a.isr.phase := by
    rcases execIsrDre_next hb with ⟨-, rfl⟩ | ⟨-, -, rfl⟩ | ⟨-, -, _, -, rfl⟩ <;> rfl
  exact hdre.trans hrxc

theorem isrChains_keeps_shape {old : State} (g : IsrSample) (hold : Shape old) (h : Shape s)
    (hcfg : s.cfg = old.cfg) (hphase : s.isr.phase = old.isr.phase) : Shape (isrChains g old s) where
  params := h.params
  txMem := h.txMem
  rxMem := h.rxMem
  rxTag := h.rxTag
  txWptr := h.txWptr
  txRptr := h.txRptr
  rxWptr := h.rxWptr
  rxRptr := h.rxRptr
  errView := h.errView
  lastError := h.lastError
  rxen := h.rxen
  txen := h.txen
  rxcie := h.rxcie
  dreie harmed := by
    simp only [isrChains] at harmed ⊢
    split at harmed
    · next hon =>
      have hon' : s.isr.phase ≠ .disabled := by
        rw [hphase]; exact of_decide_eq_true (Bool.and_eq_true_iff.1 hon).1
      exact h.txen.trans (h.rxen_of_not_disabled hon')
    · exact h.dreie harmed
  rxc := h.rxc
  qTxr := h.qTxr
  qRxw := h.qRxw
  qAck := h.qAck
  qTxw := by simp only [isrChains, chainShift_length, hold.qTxw, hcfg]
  qRxr := by simp only [isrChains, chainShift_length, hold.qRxr, hcfg]
  qReq := by simp only [isrChains, chainShift_length, hold.qReq, hcfg]

theorem ctlOnEdge_keeps_shape {old : State} (h : Shape s) (hphase : s.isr.phase = old.isr.phase) :
    Shape (ctlOnEdge old s) := by
  rcases ctlOnEdge_cases old s with ⟨-, -, e⟩ | ⟨-, -, e⟩ | ⟨-, -, e⟩ | ⟨hp, -, e⟩ | ⟨hp, -, e⟩ |
    ⟨-, -, e⟩ | ⟨-, -, e⟩ | ⟨-, -, e⟩ <;> rw [e]
  · exact h.enableIsr
  · exact h
  · exact h
  · exact h.noteClose (by simp [hphase, hp])
  · exact h.startSettle (by simp [hphase, hp])
  · exact h
  · exact h.settleTick
  · exact h.disableIsr

theorem isrEdge_keeps_shape {g : IsrSample} (h : Shape s) (he : isrEdge g s = .next t) :
    Shape t := by
  obtain ⟨a, b, ha, hb, rfl⟩ := isrEdge_next he
  have hshape : Shape b := exec_keeps_shape (exec_keeps_shape h ha) hb
  have hcfg : b.cfg = s.cfg := (exec_sameLine hb).1.trans (exec_sameLine ha).1
  have hphase := handlers_keep_phase ha hb
  exact ctlOnEdge_keeps_shape (isrChains_keeps_shape g h hshape hcfg hphase) hphase

theorem clockStep_keeps_shape {k : ClockEdge} {m : Masks} (h : Shape s)
    (he : clockStep k m s = .next t) : Shape t := by
  cases k with
  | fg => exact fgEdge_keeps_shape h he
  | isr => exact isrEdge_keeps_shape h he
  | both =>
    obtain ⟨f, -, he⟩ := andThen_next.1 he
    obtain ⟨i, -, he⟩ := andThen_next.1 he
    obtain ⟨a, hfg, hisr⟩ := andThen_next.1 he
    exact isrEdge_keeps_shape (fgEdge_keeps_shape h hfg) hisr

/-! ### A step of the machine -/

/-- An event answers what its operation answers, at that operation's level, or leaves the state as it is
(00_scope.md R11). -/
theorem atLevel_next {l : Level} {o : Host.Outcome State Fault Refusal}
    (h : atLevel l s o = .next t) : (s.cfg.level = l ∧ o = .next t) ∨ t = s := by
  unfold atLevel at h
  split at h
  · next hl => exact .inl ⟨hl, h⟩
  · exact .inr (next_inj.1 h).symm

theorem atLevel_keeps_shape {l : Level} {o : Host.Outcome State Fault Refusal} (h : Shape s)
    (he : atLevel l s o = .next t) (ho : o = .next t → Shape t) : Shape t := by
  rcases atLevel_next he with ⟨-, hstep⟩ | rfl
  · exact ho hstep
  · exact h

theorem stepEvent_keeps_shape {e : Event} (h : Shape s) (he : stepEvent e s = .next t) :
    Shape t := by
  cases e with
  | host w =>
    obtain ⟨_, hhost⟩ := hostPresent_cases w s
    obtain rfl := next_inj.1 he
    rw [hhost]
    exact { h with }
  | hostSeq bs => exact exec_keeps_shape (i := .sendseq bs) h he
  | rxArrive d e => exact exec_keeps_shape (i := .envRxArrive d e) h he
  | txReady => exact exec_keeps_shape (i := .envTxReady) h he
  | fg => exact atLevel_keeps_shape h he (fgStep_keeps_shape h)
  | handler hd => exact atLevel_keeps_shape h he (handlerStep_keeps_shape h)
  | ctl | sync => exact atLevel_keeps_shape h he (exec_keeps_shape h)
  | clock k m => exact atLevel_keeps_shape h he (clockStep_keeps_shape h)
  | reset => exact next_inj.1 he ▸ h.hardReset

theorem Shape.advance (h : Shape s) : Shape s.advance := by
  obtain ⟨_, _, hadv⟩ := advance_cases s
  rw [hadv]
  exact { h with }

/-- Settles O43: each operation's possible next states are named updates, each of which keeps the shape;
an edge is FG's or the handlers' operations, the chains and CTL one after another. -/
theorem stepKeepsShape : Obligations.StepKeepsShape :=
  fun s _ h => stepEvent_keeps_shape (e := s.nextEvent) h.advance

end Sys2Proof.Safety
end

section
/-! PROOFS: every agent-level step keeps the whole invariant, and the state after reset meets it
(10_state.md R24, R41, 42_isr_handlers.md R208). The handshake is read as four situations of the line,
and the buffers as three stages of an OPEN; each step is then a move inside or between them. -/

namespace Sys2Proof.Safety

open Sys2Proof.Machine

variable {s t : State}

/-! ### The four situations of the handshake -/

/-- The line is Closed, or its OPEN has requested nothing yet. -/
structure LineClosed (s : State) : Prop where
  phase : s.fg.phase = .idle ∨ s.fg.phase = .openInit
  lineOpen : s.fg.lineOpen = false
  enReq : s.fg.enReq = false
  enReqView : s.isr.enReqView = false
  isrPhase : s.isr.phase = .disabled
  enAck : s.isr.enAck = false
  enAckView : s.fg.enAckView = false

/-- OPEN has requested and waits: CTL enables the line, then acknowledges (41_fg_commands.md R172). -/
structure LineRequested (s : State) : Prop where
  phase : s.fg.phase = .openWait
  lineOpen : s.fg.lineOpen = false
  enReq : s.fg.enReq = true
  isrPhase : s.isr.phase = .disabled ∨ s.isr.phase = .enabled
  enReqView : s.isr.phase = .enabled → s.isr.enReqView = true
  enAck : s.isr.enAck = decide (s.isr.phase ≠ .disabled)
  enAckView : s.isr.phase = .disabled → s.fg.enAckView = false

/-- The line is Open, and a CLOSE has at most begun to drain the transmit buffer. -/
structure LineOpened (s : State) : Prop where
  phase : s.fg.phase = .idle ∨ s.fg.phase = .sendWait ∨ s.fg.phase = .closeDrain
  lineOpen : s.fg.lineOpen = true
  enReq : s.fg.enReq = true
  enReqView : s.isr.enReqView = true
  isrPhase : s.isr.phase = .enabled
  enAck : s.isr.enAck = true
  enAckView : s.fg.enAckView = true

/-- CLOSE has withdrawn the request and waits until CTL has disabled the line (41_fg_commands.md R173). -/
structure LineClosing (s : State) : Prop where
  phase : s.fg.phase = .closeWait
  lineOpen : s.fg.lineOpen = true
  enReq : s.fg.enReq = false
  enReqView : s.isr.phase ≠ .enabled → s.isr.enReqView = false
  enAck : s.isr.enAck = decide (s.isr.phase ≠ .disabled)
  enAckView : s.isr.phase ≠ .disabled → s.fg.enAckView = true

theorem LineClosed.handshake (h : LineClosed s) : Handshake s := by
  obtain ⟨hp | hp, ho, hreq, hreqv, hip, hack, hackv⟩ := h <;> rw [Handshake, hp, ho] <;>
    exact ⟨hreq, hreqv, hip, hack, hackv⟩

theorem LineRequested.handshake (h : LineRequested s) : Handshake s := by
  obtain ⟨hp, ho, hreq, hip, hreqv, hack, hackv⟩ := h
  rw [Handshake, hp, ho]
  rcases hip with hip | hip
  · exact ⟨hreq, .inl ⟨hip, by simp [hack, hip], hackv hip⟩⟩
  · exact ⟨hreq, .inr ⟨hip, hreqv hip, by simp [hack, hip]⟩⟩

theorem LineOpened.handshake (h : LineOpened s) : Handshake s := by
  obtain ⟨hp | hp | hp, ho, hreq, hreqv, hip, hack, hackv⟩ := h <;> rw [Handshake, hp, ho] <;>
    exact ⟨hreq, hreqv, hip, hack, hackv⟩

theorem LineClosing.handshake (h : LineClosing s) : Handshake s := by
  obtain ⟨hp, ho, hreq, hreqv, hack, hackv⟩ := h
  rw [Handshake, hp, ho]
  cases hip : s.isr.phase <;> simp_all

theorem handshake_situation (h : Handshake s) :
    LineClosed s ∨ LineRequested s ∨ LineOpened s ∨ LineClosing s := by
  unfold Handshake at h
  split at h
  case h_1 hp ho =>
    obtain ⟨hreq, hreqv, hip, hack, hackv⟩ := h
    exact .inl ⟨.inl hp, ho, hreq, hreqv, hip, hack, hackv⟩
  case h_2 hp ho =>
    obtain ⟨hreq, hreqv, hip, hack, hackv⟩ := h
    exact .inl ⟨.inr hp, ho, hreq, hreqv, hip, hack, hackv⟩
  case h_3 hp ho =>
    obtain ⟨hreq, ⟨hip, hack, hackv⟩ | ⟨hip, hreqv, hack⟩⟩ := h
    · exact .inr (.inl ⟨hp, ho, hreq, .inl hip, by simp [hip], by simp [hip, hack], fun _ => hackv⟩)
    · exact .inr (.inl ⟨hp, ho, hreq, .inr hip, fun _ => hreqv, by simp [hip, hack], by simp [hip]⟩)
  case h_4 hp ho =>
    obtain ⟨hreq, h⟩ := h
    refine .inr (.inr (.inr ⟨hp, ho, hreq, ?_, ?_, ?_⟩)) <;> cases hip : s.isr.phase <;> simp_all
  case h_5 hp ho =>
    obtain ⟨hreq, hreqv, hip, hack, hackv⟩ := h
    exact .inr (.inr (.inl ⟨.inl hp, ho, hreq, hreqv, hip, hack, hackv⟩))
  case h_6 hp ho =>
    obtain ⟨hreq, hreqv, hip, hack, hackv⟩ := h
    exact .inr (.inr (.inl ⟨.inr (.inl hp), ho, hreq, hreqv, hip, hack, hackv⟩))
  case h_7 hp ho =>
    obtain ⟨hreq, hreqv, hip, hack, hackv⟩ := h
    exact .inr (.inr (.inl ⟨.inr (.inr hp), ho, hreq, hreqv, hip, hack, hackv⟩))
  all_goals exact h.elim

theorem lineClosed_of_closed (h : Handshake s) (hp : s.fg.phase = .idle)
    (ho : s.fg.lineOpen = false) : LineClosed s := by
  rcases handshake_situation h with hc | ⟨hp', -⟩ | ⟨-, ho', -⟩ | ⟨hp', -⟩
  · exact hc
  · simp [hp] at hp'
  · simp [ho] at ho'
  · simp [hp] at hp'

theorem lineClosed_of_openInit (h : Handshake s) (hp : s.fg.phase = .openInit) : LineClosed s := by
  rcases handshake_situation h with hc | ⟨hp', -⟩ | ⟨hp', -⟩ | ⟨hp', -⟩
  · exact hc
  all_goals simp [hp] at hp'

theorem lineRequested_of_openWait (h : Handshake s) (hp : s.fg.phase = .openWait) :
    LineRequested s := by
  rcases handshake_situation h with ⟨hp', -⟩ | hr | ⟨hp', -⟩ | ⟨hp', -⟩
  case inr.inl => exact hr
  all_goals simp [hp] at hp'

theorem lineOpened_of_open (h : Handshake s) (ho : s.fg.lineOpen = true)
    (hp : s.fg.phase ≠ .closeWait) : LineOpened s := by
  rcases handshake_situation h with ⟨-, ho', -⟩ | ⟨-, ho', -⟩ | hop | ⟨hp', -⟩
  · simp [ho] at ho'
  · simp [ho] at ho'
  · exact hop
  · exact absurd hp' hp

theorem lineOpened_of_phase (h : Handshake s)
    (hp : s.fg.phase = .sendWait ∨ s.fg.phase = .closeDrain) : LineOpened s := by
  rcases handshake_situation h with ⟨hp', -⟩ | ⟨hp', -⟩ | hop | ⟨hp', -⟩
  case inr.inr.inl => exact hop
  all_goals rcases hp with hp | hp <;> simp [hp] at hp'

theorem lineClosing_of_closeWait (h : Handshake s) (hp : s.fg.phase = .closeWait) :
    LineClosing s := by
  rcases handshake_situation h with ⟨hp', -⟩ | ⟨hp', -⟩ | ⟨hp', -⟩ | hc
  case inr.inr.inr => exact hc
  all_goals simp [hp] at hp'

/-- CTL can enable only while OPEN waits for it. -/
theorem lineRequested_of_enabling (h : Handshake s) (hip : s.isr.phase = .disabled)
    (hreqv : s.isr.enReqView = true) : LineRequested s := by
  rcases handshake_situation h with ⟨-, -, -, hreqv', -⟩ | hr | ⟨-, -, -, -, hip', -⟩ | hc
  · simp [hreqv] at hreqv'
  · exact hr
  · simp [hip] at hip'
  · simp [hc.enReqView (by simp [hip])] at hreqv

/-- CTL can note a request to close only while CLOSE waits for it. -/
theorem lineClosing_of_noting (h : Handshake s) (hip : s.isr.phase = .enabled)
    (hreqv : s.isr.enReqView = false) : LineClosing s := by
  rcases handshake_situation h with ⟨-, -, -, -, hip', -⟩ | hr | ⟨-, -, -, hreqv', -⟩ | hc
  · simp [hip] at hip'
  · simp [hr.enReqView hip] at hreqv
  · simp [hreqv] at hreqv'
  · exact hc

/-- CTL turns the line off only while CLOSE waits for it. -/
theorem lineClosing_of_turningOff (h : Handshake s)
    (hip : s.isr.phase = .waitDre ∨ s.isr.phase = .settle) : LineClosing s := by
  rcases handshake_situation h with ⟨-, -, -, -, hip', -⟩ | ⟨-, -, -, hip', -⟩ |
    ⟨-, -, -, -, hip', -⟩ | hc
  case inr.inr.inr => exact hc
  all_goals rcases hip with hip | hip <;> simp [hip] at hip'

/-! ### The three stages of the buffers -/

/-- Outside OPEN: the order of 10_state.md R24, and every entry between the pointers written
(20_memory.md R86). -/
structure Ordered (s : State) : Prop where
  tx : RingOrdered s.cfg.nTx s.fg.txWptr s.isr.txRptr s.isr.txWview s.fg.txRview
  rx : RingOrdered s.cfg.nRx s.isr.rxWptr s.fg.rxRptr s.fg.rxWview s.isr.rxRview
  txMem : Held (k := 8) s.fg.txMem s.cfg.nTx s.fg.txWptr s.isr.txRptr
  rxMem : Held (k := 8) s.isr.rxMem s.cfg.nRx s.isr.rxWptr s.fg.rxRptr
  rxTag : Held s.isr.rxTag s.cfg.nRx s.isr.rxWptr s.fg.rxRptr

/-- While OPEN waits after `CTL.ENABLE`: only receive entries can have come in, and the foreground's views
are still old. -/
structure Prepared (s : State) : Prop where
  txWptr : s.fg.txWptr = 0
  txRptr : s.isr.txRptr = 0
  txWview : s.isr.txWview = 0
  rxRptr : s.fg.rxRptr = 0
  rxRview : s.isr.rxRview = 0
  rxCount : occ s.cfg.nRx s.isr.rxWptr 0 ≤ 2 ^ s.cfg.nRx
  rxMem : Held (k := 8) s.isr.rxMem s.cfg.nRx s.isr.rxWptr 0
  rxTag : Held s.isr.rxTag s.cfg.nRx s.isr.rxWptr 0

theorem buffers_of_ordered (hp : ¬Opening s) (h : Ordered s) : Buffers s := by
  obtain ⟨hinit, hwait⟩ := not_or.1 hp
  rw [Buffers, if_neg (by simp [hinit, hwait]), if_neg hwait]
  exact ⟨⟨h.tx, h.rx⟩, h.txMem, h.rxMem, h.rxTag⟩

theorem Inv.ordered (h : Inv s) (hp : ¬Opening s) : Ordered s := by
  obtain ⟨⟨htx, hrx⟩, htm, hrm, hrt⟩ := h.buffers_of_not_opening hp
  exact ⟨htx, hrx, htm, hrm, hrt⟩

theorem buffers_iff_prepared (hp : s.fg.phase = .openWait) (hon : s.isr.phase ≠ .disabled) :
    Buffers s ↔ Prepared s := by
  rw [Buffers, if_neg (by simp [hp, hon]), if_pos hp]
  constructor
  · rintro ⟨⟨h1, h2, h3⟩, ⟨h4, h5, h6⟩, h7, h8⟩
    exact ⟨h1, h2, h3, h4, h5, h6, h7, h8⟩
  · rintro ⟨h1, h2, h3, h4, h5, h6, h7, h8⟩
    exact ⟨⟨h1, h2, h3⟩, ⟨h4, h5, h6⟩, h7, h8⟩

theorem buffers_iff_zeroed
    (hp : s.fg.phase = .openInit ∨ (s.fg.phase = .openWait ∧ s.isr.phase = .disabled)) :
    Buffers s ↔ s.fg.txWptr = 0 ∧ s.fg.rxRptr = 0 := by
  rw [Buffers, if_pos hp]

/-- While the interrupt domain is on, OPEN is not in progress or waits after `CTL.ENABLE`. -/
theorem Inv.ordered_or_prepared (h : Inv s) (hon : s.isr.phase ≠ .disabled) :
    (¬Opening s ∧ Ordered s) ∨ (s.fg.phase = .openWait ∧ Prepared s) := by
  by_cases hp : Opening s
  · rcases hp with hinit | hwait
    · exact absurd (lineClosed_of_openInit h.handshake hinit).isrPhase hon
    · exact .inr ⟨hwait, (buffers_iff_prepared hwait hon).1 h.buffers⟩
  · exact .inl ⟨hp, h.ordered hp⟩

/-- A CLOSE that waits finds the transmit buffer empty in every opinion. -/
theorem Inv.tx_empty_of_closing (h : Inv s) (hp : s.fg.phase = .closeWait) :
    s.isr.txWview = s.isr.txRptr ∧ s.fg.txRview = s.isr.txRptr := by
  have hring := (h.ordered (by simp [hp])).tx
  rw [h.drained hp] at hring
  obtain ⟨hsum, -⟩ := hring
  rw [occ_self] at hsum
  exact ⟨(occ_eq_zero h.nTx_le h.txWview h.shape.txRptr).1 (by omega),
    ((occ_eq_zero h.nTx_le h.shape.txRptr h.txRview).1 (by omega)).symm⟩

/-! ### What the ring buffers' operations do to the order -/

theorem held_empty {n k : Nat} (m : Mem k) (p : Ptr) : Held m n p p := fun i hi => by
  simp [occ_self] at hi

theorem ringOrdered_zero (n : Nat) : RingOrdered n 0 0 0 0 := by
  simp [RingOrdered, occ_self]

/-- A producer that may write has room for one more entry. -/
theorem RingOrdered.count_lt {n : Nat} {w r wv rv : Ptr} (hn : n ≤ 12)
    (hw : w.toNat < 2 ^ (n + 1)) (hr : r.toNat < 2 ^ (n + 1)) (hwv : wv.toNat < 2 ^ (n + 1))
    (h : RingOrdered n w r wv rv) (hf : occ n w rv ≠ 2 ^ n) : occ n w r < 2 ^ n := by
  have hcount := ring_count hn hw hr hwv h
  obtain ⟨hsum, hle⟩ := h
  omega

theorem Inv.ordered_pushTx (h : Inv s) (ho : Ordered s) (hf : s.txFullFg = false) (b : Byte) :
    Ordered (s.pushTx b) :=
  have hne : occ s.cfg.nTx s.fg.txWptr s.fg.txRview ≠ 2 ^ s.cfg.nTx := of_decide_eq_false hf
  { ho with
    tx := ring_push h.nTx_le h.shape.txWptr h.txWview h.txRview ho.tx hne
    txMem := ho.txMem.push h.nTx_le h.shape.txWptr h.shape.txRptr
      (ho.tx.count_lt h.nTx_le h.shape.txWptr h.shape.txRptr h.txWview hne) b }

theorem Inv.ordered_pushRx (h : Inv s) (ho : Ordered s) (hf : s.rxFullIsr = false) (d : Byte)
    (g : Tag) : Ordered (s.pushRx d g) :=
  have hne : occ s.cfg.nRx s.isr.rxWptr s.isr.rxRview ≠ 2 ^ s.cfg.nRx := of_decide_eq_false hf
  have hlt := ho.rx.count_lt h.nRx_le h.shape.rxWptr h.shape.rxRptr h.rxWview hne
  { ho with
    rx := ring_push h.nRx_le h.shape.rxWptr h.rxWview h.rxRview ho.rx hne
    rxMem := ho.rxMem.push h.nRx_le h.shape.rxWptr h.shape.rxRptr hlt d
    rxTag := ho.rxTag.push h.nRx_le h.shape.rxWptr h.shape.rxRptr hlt g }

theorem Inv.prepared_pushRx (h : Inv s) (hpre : Prepared s) (hf : s.rxFullIsr = false) (d : Byte)
    (g : Tag) : Prepared (s.pushRx d g) := by
  have hne : occ s.cfg.nRx s.isr.rxWptr s.isr.rxRview ≠ 2 ^ s.cfg.nRx := of_decide_eq_false hf
  rw [hpre.rxRview] at hne
  have hlt : occ s.cfg.nRx s.isr.rxWptr 0 < 2 ^ s.cfg.nRx := lt_of_le_of_ne hpre.rxCount hne
  have hone := occ_inc_left h.nRx_le h.shape.rxWptr (ptr_zero_lt _)
    (by have := modulus_two s.cfg.nRx; omega)
  exact { hpre with
    rxCount := hone.trans_le hlt
    rxMem := hpre.rxMem.push h.nRx_le h.shape.rxWptr (ptr_zero_lt _) hlt d
    rxTag := hpre.rxTag.push h.nRx_le h.shape.rxWptr (ptr_zero_lt _) hlt g }

theorem Inv.ordered_popTx (h : Inv s) (ho : Ordered s) (he : s.txEmptyIsr = false) :
    Ordered { s with isr := { s.isr with txRptr := ptrInc s.cfg.nTx s.isr.txRptr } } :=
  have hne : s.isr.txWview ≠ s.isr.txRptr := of_decide_eq_false he
  { ho with
    tx := ring_pop h.nTx_le h.shape.txRptr h.txWview h.txRview ho.tx hne
    txMem := ho.txMem.pop h.nTx_le h.shape.txWptr h.shape.txRptr
      (ho.tx.count_ne h.nTx_le h.shape.txWptr h.shape.txRptr h.txWview hne) }

theorem Inv.ordered_popRx (h : Inv s) (ho : Ordered s) (he : s.rxEmptyFg = false) :
    Ordered { s with fg := { s.fg with rxRptr := ptrInc s.cfg.nRx s.fg.rxRptr } } :=
  have hne : s.fg.rxWview ≠ s.fg.rxRptr := of_decide_eq_false he
  have hcount := ho.rx.count_ne h.nRx_le h.shape.rxWptr h.shape.rxRptr h.rxWview hne
  { ho with
    rx := ring_pop h.nRx_le h.shape.rxRptr h.rxWview h.rxRview ho.rx hne
    rxMem := ho.rxMem.pop h.nRx_le h.shape.rxWptr h.shape.rxRptr hcount
    rxTag := ho.rxTag.pop h.nRx_le h.shape.rxWptr h.shape.rxRptr hcount }

/-! ### The steps of FG -/

theorem Inv.fgHeld (h : Inv s) : Inv s.fgHeld := { h with shape := h.shape.fgHeld }

theorem Inv.respond (h : Inv s) (hp : s.fg.phase = .idle) (v : RspWord) : Inv (s.respond v) :=
  { h with
    shape := h.shape.respond v
    handshake := by simpa [Handshake, hp] using h.handshake
    buffers := buffers_of_ordered (by simp) { h.ordered (by simp [hp]) with }
    drained := nofun }

theorem Inv.openStart (h : Inv s) (hp : s.fg.phase = .idle) (ho : s.fg.lineOpen = false)
    (baud : BitVec 16) : Inv (s.openStart baud) :=
  { h with
    shape := h.shape.openStart baud
    handshake := LineClosed.handshake
      { lineClosed_of_closed h.handshake hp ho with phase := .inr rfl }
    buffers := (buffers_iff_zeroed (.inl rfl)).2 ⟨rfl, rfl⟩
    drained := nofun }

theorem Inv.openRequest (h : Inv s) (hp : s.fg.phase = .openInit) : Inv s.openRequest :=
  have hc := lineClosed_of_openInit h.handshake hp
  { h with
    shape := h.shape.openRequest
    handshake := LineRequested.handshake
      { phase := rfl, lineOpen := hc.lineOpen, enReq := rfl, isrPhase := .inl hc.isrPhase
        enReqView := by simp [hc.isrPhase]
        enAck := by simp [hc.isrPhase, hc.enAck]
        enAckView := fun _ => hc.enAckView }
    buffers := (buffers_iff_zeroed (s := s.openRequest) (.inr ⟨rfl, hc.isrPhase⟩)).2
      ((buffers_iff_zeroed (.inl hp)).1 h.buffers)
    drained := nofun }

/-- OPEN.3 completes only after `CTL.ENABLE`, and brings the foreground's views to the zeroed
pointers (41_fg_commands.md R172). -/
theorem Inv.openFinish (h : Inv s) (hp : s.fg.phase = .openWait) (hackv : s.fg.enAckView = true) :
    Inv s.openFinish := by
  have hr := lineRequested_of_openWait h.handshake hp
  have hip : s.isr.phase = .enabled :=
    hr.isrPhase.resolve_left fun hoff => by simp [hr.enAckView hoff] at hackv
  have hpre := (buffers_iff_prepared hp (by simp [hip])).1 h.buffers
  have hopened : LineOpened s.openFinish :=
    { phase := .inl rfl, lineOpen := rfl, enReq := hr.enReq, enReqView := hr.enReqView hip
      isrPhase := hip, enAck := by simp [hr.enAck, hip], enAckView := hackv }
  have hordered : Ordered s.openFinish :=
    { tx := by simpa [hpre.txWptr, hpre.txRptr, hpre.txWview] using ringOrdered_zero _
      rx := by simpa [RingOrdered, hpre.rxRptr, hpre.rxRview, occ_self] using hpre.rxCount
      txMem := by simpa [hpre.txWptr, hpre.txRptr] using held_empty _ _
      rxMem := by simpa [hpre.rxRptr] using hpre.rxMem
      rxTag := by simpa [hpre.rxRptr] using hpre.rxTag }
  exact { h with
    shape := h.shape.openFinish
    txRview := ptr_zero_lt _
    rxWview := ptr_zero_lt _
    handshake := hopened.handshake
    buffers := buffers_of_ordered (by simp) hordered
    drained := nofun }

theorem Inv.closeStart (h : Inv s) (hp : s.fg.phase = .idle) (ho : s.fg.lineOpen = true) :
    Inv s.closeStart :=
  { h with
    shape := h.shape.closeStart
    handshake := LineOpened.handshake
      { lineOpened_of_open h.handshake ho (by simp [hp]) with phase := .inr (.inr rfl) }
    buffers := buffers_of_ordered (by simp) { h.ordered (by simp [hp]) with }
    drained := nofun }

theorem Inv.closeRequest (h : Inv s) (hp : s.fg.phase = .closeDrain) (he : s.txEmptyFg = true) :
    Inv s.closeRequest :=
  have hop := lineOpened_of_phase h.handshake (.inr hp)
  { h with
    shape := h.shape.closeRequest
    handshake := LineClosing.handshake
      { phase := rfl, lineOpen := hop.lineOpen, enReq := rfl
        enReqView := by simp [hop.isrPhase]
        enAck := by simp [hop.isrPhase, hop.enAck]
        enAckView := fun _ => hop.enAckView }
    buffers := buffers_of_ordered (by simp) { h.ordered (by simp [hp]) with }
    drained := fun _ => of_decide_eq_true he }

/-- CLOSE.3 completes only after `CTL.CLOSE3` (41_fg_commands.md R173). -/
theorem Inv.closeFinish (h : Inv s) (hp : s.fg.phase = .closeWait) (hackv : s.fg.enAckView = false) :
    Inv s.closeFinish := by
  have hc := lineClosing_of_closeWait h.handshake hp
  have hip : s.isr.phase = .disabled := by
    by_contra hon
    simp [hc.enAckView hon] at hackv
  have hclosed : LineClosed s.closeFinish :=
    { phase := .inl rfl, lineOpen := rfl, enReq := hc.enReq, enReqView := hc.enReqView (by simp [hip])
      isrPhase := hip, enAck := by simp [hc.enAck, hip], enAckView := hackv }
  exact { h with
    shape := h.shape.closeFinish
    handshake := hclosed.handshake
    buffers := buffers_of_ordered (by simp) { h.ordered (by simp [hp]) with }
    drained := nofun }

theorem Inv.sendHold (h : Inv s) (hp : s.fg.phase = .idle) (ho : s.fg.lineOpen = true) (b : Byte) :
    Inv (s.sendHold b) :=
  { h with
    shape := h.shape.sendHold b
    handshake := LineOpened.handshake
      { lineOpened_of_open h.handshake ho (by simp [hp]) with phase := .inr (.inl rfl) }
    buffers := buffers_of_ordered (by simp) { h.ordered (by simp [hp]) with }
    drained := nofun }

theorem Inv.sendPush (h : Inv s) (hop : LineOpened s) (hf : s.txFullFg = false) (b : Byte) :
    Inv ((s.pushTx b).respond rspDone) :=
  have hp : ¬Opening s := by rcases hop.phase with hp | hp | hp <;> simp [hp]
  { h with
    shape := (h.shape.pushTx b).respond _
    handshake := LineOpened.handshake { hop with phase := .inl rfl }
    buffers := buffers_of_ordered (by simp) { h.ordered_pushTx (h.ordered hp) hf b with }
    drained := nofun }

theorem execOpenLine_keeps_inv {baud : BitVec 16} (h : Inv s) (he : execOpenLine baud s = .next t) :
    Inv t := by
  rcases execOpenLine_next he with ⟨hp, -, rfl⟩ | ⟨hp, ho, rfl⟩ | ⟨hp, rfl⟩ | ⟨hp, hackv, rfl⟩ |
    ⟨-, -, rfl⟩ | ⟨-, -, -, rfl⟩
  · exact h.respond hp _
  · exact h.openStart hp ho baud
  · exact h.openRequest hp
  · exact h.openFinish hp hackv
  · exact h.fgHeld
  · exact h

theorem execCloseLine_keeps_inv (h : Inv s) (he : execCloseLine s = .next t) : Inv t := by
  rcases execCloseLine_next he with ⟨hp, -, rfl⟩ | ⟨hp, ho, rfl⟩ | ⟨hp, hempty, rfl⟩ |
    ⟨-, -, rfl⟩ | ⟨hp, hackv, rfl⟩ | ⟨-, -, rfl⟩ | ⟨-, -, -, rfl⟩
  · exact h.respond hp _
  · exact h.closeStart hp ho
  · exact h.closeRequest hp hempty
  · exact h.fgHeld
  · exact h.closeFinish hp hackv
  · exact h.fgHeld
  · exact h

theorem execSend_keeps_inv {b : Byte} (h : Inv s) (he : execSend b s = .next t) : Inv t := by
  rcases execSend_next he with ⟨hp, -, rfl⟩ | ⟨hp, ho, -, rfl⟩ | ⟨hp, ho, hf, rfl⟩ | ⟨-, -, rfl⟩ |
    ⟨hp, hf, rfl⟩ | ⟨-, -, rfl⟩
  · exact h.respond hp _
  · exact h.sendHold hp ho b
  · exact h.sendPush (lineOpened_of_open h.handshake ho (by simp [hp])) hf b
  · exact h.fgHeld
  · exact h.sendPush (lineOpened_of_phase h.handshake (.inl hp)) hf _
  · exact h

theorem execRead_keeps_inv (h : Inv s) (he : execRead s = .next t) : Inv t := by
  have hshape := execRead_keeps_shape h.shape he
  rcases execRead_next he with ⟨-, rfl⟩ | ⟨hp, -, rfl⟩ | ⟨hp, -, -, rfl⟩ |
    ⟨hp, ho, hne, b, g, -, -, rfl⟩
  · exact h
  · exact h.respond hp _
  · exact h.respond hp _
  · exact { h with
      shape := hshape
      handshake := LineOpened.handshake
        { lineOpened_of_open h.handshake ho (by simp [hp]) with phase := .inl rfl }
      buffers := buffers_of_ordered (by simp)
        { h.ordered_popRx (h.ordered (by simp [hp])) hne with }
      drained := nofun }

theorem exec_fgCommand_keeps_inv {i : Instr} (hi : isFgCommand i) (h : Inv s)
    (he : exec i s = .next t) : Inv t := by
  cases i with
  | nop | txstat | rxstat | rsvd7 =>
    rcases atOnce_next he with ⟨hp, rfl⟩ | ⟨-, rfl⟩
    · exact h.respond hp _
    · exact h
  | openLine baud => exact execOpenLine_keeps_inv h he
  | closeLine => exact execCloseLine_keeps_inv h he
  | send b => exact execSend_keeps_inv h he
  | read => exact execRead_keeps_inv h he
  | _ => exact hi.elim

theorem inProgress_isFgCommand {i : Instr} (h : s.inProgress = some i) : isFgCommand i := by
  unfold State.inProgress at h
  cases hp : s.fg.phase <;> simp only [hp, Option.some.injEq, reduceCtorEq] at h <;> subst h <;>
    trivial

theorem fgStep_keeps_inv (h : Inv s) (he : fgStep s = .next t) : Inv t := by
  rcases fgStep_next he with ⟨i, hi, hexec⟩ | ⟨-, -, hexec⟩ | ⟨-, -, rfl⟩
  · exact exec_fgCommand_keeps_inv (inProgress_isFgCommand hi) h hexec
  · exact exec_fgCommand_keeps_inv (decodeCmd_isFgCommand _) h.accept hexec
  · exact h.fgHeld

/-! ### The handlers -/

theorem Inv.not_disabled_of_irqRx (h : Inv s) (hirq : s.irqRx = true) : s.isr.phase ≠ .disabled := by
  obtain ⟨hrxc, -⟩ := Bool.and_eq_true_iff.1 hirq
  simpa [h.shape.rxen] using h.shape.rxc hrxc

theorem Inv.storeRx (h : Inv s) (hirq : s.irqRx = true) (hf : s.rxFullIsr = false) :
    Inv s.storeRx.takeRx := by
  have hon := h.not_disabled_of_irqRx hirq
  have hbuffers : Buffers s.storeRx.takeRx := by
    rcases h.ordered_or_prepared hon with ⟨hp, ho⟩ | ⟨hp, hpre⟩
    · have hpush := h.ordered_pushRx ho hf s.ser.rxData (rxTagOf s.isr.rxDropPending s.ser.rxErr)
      exact buffers_of_ordered hp { hpush with }
    · have hpush := h.prepared_pushRx hpre hf s.ser.rxData (rxTagOf s.isr.rxDropPending s.ser.rxErr)
      exact (buffers_iff_prepared (s := s.storeRx.takeRx) hp hon).2 { hpush with }
  exact { h with shape := h.shape.storeRx.takeRx, buffers := hbuffers }

theorem execIsrRxc_keeps_inv (h : Inv s) (he : execIsrRxc s = .next t) : Inv t := by
  rcases execIsrRxc_next he with ⟨-, rfl⟩ | ⟨-, -, rfl⟩ | ⟨hirq, hf, rfl⟩
  · exact h
  · exact { h with shape := h.shape.dropRx.takeRx }
  · exact h.storeRx hirq hf

/-- `ISR.DRE` disarms only with nothing to send that the interrupt domain knows of, and hands a byte over
only outside OPEN and before the settling delay (42_isr_handlers.md R202, R208). -/
theorem execIsrDre_keeps_inv (h : Inv s) (he : execIsrDre s = .next t) : Inv t := by
  have hshape := execIsrDre_keeps_shape h.shape he
  rcases execIsrDre_next he with ⟨-, rfl⟩ | ⟨-, hempty, rfl⟩ | ⟨hirq, hne, b, -, rfl⟩
  · exact h
  · have hview : s.isr.txWview = s.isr.txRptr := of_decide_eq_true hempty
    exact { h with shape := hshape, armed := fun _ hstale => absurd hview.symm hstale }
  · have hon := h.not_disabled_of_irqTx hirq
    have hview : s.isr.txWview ≠ s.isr.txRptr := of_decide_eq_false hne
    have hp : ¬Opening s := fun hopen => by simp [h.txEmptyIsr_of_opening hopen hon] at hne
    have hsettle : s.isr.phase ≠ .settle := fun hsettle =>
      hview (h.tx_empty_of_closing
        (lineClosing_of_turningOff h.handshake (.inr hsettle)).phase).1
    exact { h with
      shape := hshape
      buffers := buffers_of_ordered hp { h.ordered_popTx (h.ordered hp) hne with }
      dre := fun hoff => (hoff.elim hon hsettle).elim
      armed := fun _ _ => (Bool.and_eq_true_iff.1 hirq).2 }

theorem handlerStep_keeps_inv {hd : Handler} (h : Inv s) (he : handlerStep hd s = .next t) :
    Inv t := by
  rw [handlerStep_eq] at he
  cases hd with
  | rxc => exact execIsrRxc_keeps_inv h he
  | dre => exact execIsrDre_keeps_inv h he

/-! ### CTL -/

theorem Inv.enableIsr (h : Inv s) (hip : s.isr.phase = .disabled) (hreqv : s.isr.enReqView = true) :
    Inv s.enableIsr := by
  have hr := lineRequested_of_enabling h.handshake hip hreqv
  obtain ⟨htx, hrx⟩ := (buffers_iff_zeroed (.inr ⟨hr.phase, hip⟩)).1 h.buffers
  have hpre : Prepared s.enableIsr :=
    { txWptr := htx, txRptr := rfl, txWview := rfl, rxRptr := hrx, rxRview := rfl
      rxCount := by simp [occ_self], rxMem := held_empty _ _, rxTag := held_empty _ _ }
  exact { h with
    shape := h.shape.enableIsr
    txWview := ptr_zero_lt _
    rxRview := ptr_zero_lt _
    handshake := LineRequested.handshake { hr with
      isrPhase := .inr rfl, enReqView := fun _ => hreqv, enAck := rfl, enAckView := nofun }
    buffers := (buffers_iff_prepared (s := s.enableIsr) hr.phase (by simp)).2 hpre
    dre := by simp
    armed := fun _ hstale => absurd rfl hstale }

/-- While CLOSE waits, CTL moves from phase to phase with the buffers as they are. -/
theorem Inv.buffers_of_closing (h : Inv s) (hc : LineClosing s) (hp : t.fg.phase = .closeWait)
    (ho : Ordered s → Ordered t) : Buffers t :=
  buffers_of_ordered (by simp [hp]) (ho (h.ordered (by simp [hc.phase])))

theorem Inv.noteClose (h : Inv s) (hip : s.isr.phase = .enabled) (hreqv : s.isr.enReqView = false) :
    Inv s.noteClose :=
  have hc := lineClosing_of_noting h.handshake hip hreqv
  { h with
    shape := h.shape.noteClose (by simp [hip])
    handshake := LineClosing.handshake { hc with
      enReqView := fun _ => hreqv
      enAck := by simp [hc.enAck, hip]
      enAckView := fun _ => hc.enAckView (by simp [hip]) }
    buffers := h.buffers_of_closing hc hc.phase fun ho => { ho with }
    dre := by simp
    armed := fun _ => h.armed (by simp [hip]) }

theorem Inv.startSettle (h : Inv s) (hip : s.isr.phase = .waitDre) (hdre : s.ser.dre = true) :
    Inv s.startSettle :=
  have hc := lineClosing_of_turningOff h.handshake (.inl hip)
  { h with
    shape := h.shape.startSettle (by simp [hip])
    handshake := LineClosing.handshake { hc with
      enReqView := fun _ => hc.enReqView (by simp [hip])
      enAck := by simp [hc.enAck, hip]
      enAckView := fun _ => hc.enAckView (by simp [hip]) }
    buffers := h.buffers_of_closing hc hc.phase fun ho => { ho with }
    dre := fun _ => hdre
    armed := fun _ => h.armed (by simp [hip]) }

theorem Inv.disableIsr (h : Inv s) (hip : s.isr.phase = .settle) : Inv s.disableIsr :=
  have hc := lineClosing_of_turningOff h.handshake (.inr hip)
  { h with
    shape := h.shape.disableIsr
    handshake := LineClosing.handshake { hc with
      enReqView := fun _ => hc.enReqView (by simp [hip])
      enAck := rfl
      enAckView := fun hon => absurd rfl hon }
    buffers := h.buffers_of_closing hc hc.phase fun ho => { ho with }
    dre := fun _ => h.dre (.inr hip)
    armed := fun hon => absurd rfl hon }

theorem ctlStep_keeps_inv (h : Inv s) (he : exec (ctlInstr s.isr.phase) s = .next t) : Inv t := by
  cases hip : s.isr.phase <;> rw [hip] at he
  case disabled =>
    rcases execCtlEnable_next he with ⟨-, hreqv, rfl⟩ | ⟨-, rfl⟩
    · exact h.enableIsr hip hreqv
    · exact h
  case enabled =>
    rcases execCtlClose1_next he with ⟨-, hreqv, rfl⟩ | ⟨-, rfl⟩
    · exact h.noteClose hip hreqv
    · exact h
  case waitDre =>
    rcases execCtlClose2_next he with ⟨-, hdre, rfl⟩ | ⟨-, rfl⟩
    · exact h.startSettle hip hdre
    · exact h
  case settle =>
    rcases execCtlClose3_next he with ⟨-, rfl⟩ | ⟨-, hl, -, -⟩ | ⟨-, -, rfl⟩
    · exact h
    · simp [h.level] at hl
    · exact h.disableIsr hip

/-! ### The crossings -/

theorem execSyncTxw_keeps_inv {x : Ptr} (h : Inv s) (he : execSyncTxw x s = .next t) : Inv t := by
  have hshape := execSyncTxw_keeps_shape h.shape he
  rcases execSyncTxw_next he with ⟨hon, hadv, rfl⟩ | ⟨-, rfl⟩
  · obtain ⟨hx, hne, -, hle⟩ := mayAdvance_iff.1 hadv
    have hordered : ¬Opening s ∧ Ordered s :=
      (h.ordered_or_prepared hon).resolve_right fun ⟨_, hpre⟩ =>
        hne (hpre.txWview.trans hpre.txWptr.symm)
    obtain ⟨hp, ho⟩ := hordered
    exact { h with
      shape := hshape
      txWview := hx
      buffers := buffers_of_ordered hp { ho with
        tx := ring_wview h.nTx_le h.shape.txWptr h.shape.txRptr h.txWview hx ho.tx hle }
      armed := fun _ _ => rfl }
  · exact h

theorem execSyncTxr_keeps_inv {x : Ptr} (h : Inv s) (he : execSyncTxr x s = .next t) : Inv t := by
  have hshape := execSyncTxr_keeps_shape h.shape he
  rcases execSyncTxr_next he with ⟨hon, hadv, rfl⟩ | ⟨-, rfl⟩
  · obtain ⟨hx, hne, -, hle⟩ := mayAdvance_iff.1 hadv
    have hp : ¬Opening s := by simpa [State.fgCrossingsOn] using hon
    have ho := h.ordered hp
    exact { h with
      shape := hshape
      txRview := hx
      buffers := buffers_of_ordered hp { ho with
        tx := ring_rview h.nTx_le h.shape.txWptr h.shape.txRptr h.txRview hx ho.tx hle }
      drained := fun hclosing => absurd (h.tx_empty_of_closing hclosing).2 hne }
  · exact h

theorem execSyncRxw_keeps_inv {x : Ptr} (h : Inv s) (he : execSyncRxw x s = .next t) : Inv t := by
  have hshape := execSyncRxw_keeps_shape h.shape he
  rcases execSyncRxw_next he with ⟨hon, hadv, g, -, rfl⟩ | ⟨-, rfl⟩
  · obtain ⟨hx, -, -, hle⟩ := mayAdvance_iff.1 hadv
    have hp : ¬Opening s := by simpa [State.fgCrossingsOn] using hon
    have ho := h.ordered hp
    exact { h with
      shape := hshape
      rxWview := hx
      buffers := buffers_of_ordered hp { ho with
        rx := ring_wview h.nRx_le h.shape.rxWptr h.shape.rxRptr h.rxWview hx ho.rx hle } }
  · exact h

theorem execSyncRxr_keeps_inv {x : Ptr} (h : Inv s) (he : execSyncRxr x s = .next t) : Inv t := by
  have hshape := execSyncRxr_keeps_shape h.shape he
  rcases execSyncRxr_next he with ⟨hon, hadv, rfl⟩ | ⟨-, rfl⟩
  · obtain ⟨hx, hne, -, hle⟩ := mayAdvance_iff.1 hadv
    have hordered : ¬Opening s ∧ Ordered s :=
      (h.ordered_or_prepared hon).resolve_right fun ⟨_, hpre⟩ =>
        hne (hpre.rxRview.trans hpre.rxRptr.symm)
    obtain ⟨hp, ho⟩ := hordered
    exact { h with
      shape := hshape
      rxRview := hx
      buffers := buffers_of_ordered hp { ho with
        rx := ring_rview h.nRx_le h.shape.rxWptr h.shape.rxRptr h.rxRview hx ho.rx hle } }
  · exact h

theorem execSyncReq_keeps_inv (h : Inv s) (he : execSyncReq s = .next t) : Inv t := by
  obtain rfl := next_inj.1 he
  refine { h with shape := { h.shape with }, handshake := ?_ }
  rcases handshake_situation h.handshake with hc | hr | hop | hc
  · exact LineClosed.handshake { hc with enReqView := hc.enReq }
  · exact LineRequested.handshake { hr with enReqView := fun _ => hr.enReq }
  · exact LineOpened.handshake { hop with enReqView := hop.enReq }
  · exact LineClosing.handshake { hc with enReqView := fun _ => hc.enReq }

theorem execSyncAck_keeps_inv (h : Inv s) (he : execSyncAck s = .next t) : Inv t := by
  obtain rfl := next_inj.1 he
  refine { h with shape := { h.shape with }, handshake := ?_ }
  rcases handshake_situation h.handshake with hc | hr | hop | hc
  · exact LineClosed.handshake { hc with enAckView := hc.enAck }
  · exact LineRequested.handshake { hr with
      enAckView := fun (hoff : s.isr.phase = .disabled) => by simpa [hoff] using hr.enAck }
  · exact LineOpened.handshake { hop with enAckView := hop.enAck }
  · exact LineClosing.handshake { hc with
      enAckView := fun (hon : s.isr.phase ≠ .disabled) => by simpa [hon] using hc.enAck }

theorem sync_keeps_inv {c : Crossing} {x : Ptr} (h : Inv s)
    (he : exec (syncInstr c x) s = .next t) : Inv t := by
  cases c with
  | txw => exact execSyncTxw_keeps_inv h he
  | txr => exact execSyncTxr_keeps_inv h he
  | rxw => exact execSyncRxw_keeps_inv h he
  | rxr => exact execSyncRxr_keeps_inv h he
  | req => exact execSyncReq_keeps_inv h he
  | ack => exact execSyncAck_keeps_inv h he

/-! ### The environment, reset, and a step of the machine -/

theorem execEnvRxArrive_keeps_inv {d : Byte} {e : BitVec 3} (h : Inv s)
    (he : execEnvRxArrive d e s = .next t) : Inv t := by
  have hshape := execEnvRxArrive_keeps_shape h.shape he
  rcases execEnvRxArrive_next he with ⟨-, -, rfl⟩ | ⟨-, rfl⟩
  · exact { h with shape := hshape }
  · exact h

theorem execEnvTxReady_keeps_inv (h : Inv s) (he : execEnvTxReady s = .next t) : Inv t := by
  have hshape := execEnvTxReady_keeps_shape h.shape he
  rcases execEnvTxReady_next he with ⟨-, -, rfl⟩ | ⟨-, rfl⟩
  · exact { h with shape := hshape, dre := fun _ => rfl }
  · exact h

/-- Reset leaves a Closed line with empty buffers, whatever the state before it (70_reset_and_hazards.md
R303). -/
theorem inv_hardReset (hlevel : s.cfg.level = .agent) (hshape : Shape s.hardReset) :
    Inv s.hardReset where
  level := hlevel
  shape := hshape
  txWview := ptr_zero_lt _
  txRview := ptr_zero_lt _
  rxWview := ptr_zero_lt _
  rxRview := ptr_zero_lt _
  handshake := LineClosed.handshake ⟨.inl rfl, rfl, rfl, rfl, rfl, rfl, rfl⟩
  buffers := buffers_of_ordered (not_or.2 ⟨nofun, nofun⟩)
    ⟨ringOrdered_zero _, ringOrdered_zero _, held_empty _ _, held_empty _ _, held_empty _ _⟩
  drained := nofun
  dre := fun _ => rfl
  armed := fun hon => absurd rfl hon

theorem atLevel_keeps_inv {l : Level} {o : Host.Outcome State Fault Refusal} (h : Inv s)
    (he : atLevel l s o = .next t) (ho : l = .agent → o = .next t → Inv t) : Inv t := by
  rcases atLevel_next he with ⟨hl, hstep⟩ | rfl
  · exact ho (hl.symm.trans h.level) hstep
  · exact h

theorem stepEvent_keeps_inv {e : Event} (h : Inv s) (he : stepEvent e s = .next t) : Inv t := by
  cases e with
  | host w =>
    obtain ⟨_, hhost⟩ := hostPresent_cases w s
    obtain rfl := next_inj.1 he
    rw [hhost]
    exact h.of_same_parts rfl rfl rfl rfl
  | hostSeq bs => exact next_inj.1 he ▸ h.of_same_parts rfl rfl rfl rfl
  | rxArrive d e => exact execEnvRxArrive_keeps_inv h he
  | txReady => exact execEnvTxReady_keeps_inv h he
  | fg => exact atLevel_keeps_inv h he fun _ => fgStep_keeps_inv h
  | handler hd => exact atLevel_keeps_inv h he fun _ => handlerStep_keeps_inv h
  | ctl => exact atLevel_keeps_inv h he fun _ => ctlStep_keeps_inv h
  | sync c x => exact atLevel_keeps_inv h he fun _ => sync_keeps_inv h
  | clock k m => exact atLevel_keeps_inv h he nofun
  | reset => exact next_inj.1 he ▸ inv_hardReset h.level h.shape.hardReset

/-- Settles O44: every agent's operation is a move inside or between the situations of the handshake and
keeps the order of both buffers. -/
theorem stepKeepsInv : Obligations.StepKeepsInv :=
  fun s _ h => stepEvent_keeps_inv (e := s.nextEvent) h.advance

/-! ### The state after reset -/

/-- Settles O42: the state after reset is where the reset event leads from it, and its storages are
empty. -/
theorem resetMeetsInvariants : Obligations.ResetMeetsInvariants := by
  intro c hc
  have hempty {k n : Nat} : StorageOk ([] : Mem k) n := ⟨List.Pairwise.nil, nofun⟩
  have hshape : Shape (State.resetWith c).hardReset := shape_hardReset hc hempty hempty hempty
  exact ⟨hshape, fun hlevel => (inv_hardReset hlevel hshape : Inv (State.resetWith c).hardReset)⟩

end Sys2Proof.Safety
end

section
/-! PROOFS: the single-writer table (10_state.md R20, R44). `State.writtenBy` is the table as a function: a
state with the parts one operation may write taken from another state. That every operation is such an
update is proved once, and each statement about who writes what is read off the table. -/

namespace Sys2Proof.Machine

variable {s t : State}

/-- `s` with the parts that the operation `i` may write, and no others, as they are in `t`. -/
def State.writtenBy (i : Instr) (s t : State) : State :=
  match i with
  | .nop | .txstat | .rxstat | .rsvd7 =>
    { s with fg := { s.fg with phase := t.fg.phase, rsp := t.fg.rsp, rspValid := t.fg.rspValid } }
  | .openLine _ =>
    { s with
      fg := { t.fg with
        txMem := s.fg.txMem, cmdHold := s.fg.cmdHold
        enAckView := s.fg.enAckView, qAck := s.fg.qAck }
      ghost := { s.ghost with portcfgCount := t.ghost.portcfgCount } }
  | .closeLine =>
    { s with fg := { s.fg with
        lineOpen := t.fg.lineOpen, phase := t.fg.phase, enReq := t.fg.enReq
        rsp := t.fg.rsp, rspValid := t.fg.rspValid } }
  | .send _ =>
    { s with fg := { s.fg with
        phase := t.fg.phase, cmdHold := t.fg.cmdHold, txMem := t.fg.txMem, txWptr := t.fg.txWptr
        rsp := t.fg.rsp, rspValid := t.fg.rspValid } }
  | .read =>
    { s with fg := { s.fg with
        phase := t.fg.phase, rxRptr := t.fg.rxRptr, rsp := t.fg.rsp, rspValid := t.fg.rspValid } }
  | .sendseq _ => { s with host := { s.host with pending := t.host.pending } }
  | .isrRxc =>
    { s with
      isr := { s.isr with
        rxMem := t.isr.rxMem, rxTag := t.isr.rxTag, rxWptr := t.isr.rxWptr
        lastRxError := t.isr.lastRxError, rxDropPending := t.isr.rxDropPending }
      ser := { s.ser with rxc := t.ser.rxc } }
  | .isrDre =>
    { s with
      isr := { s.isr with dreie := t.isr.dreie, txRptr := t.isr.txRptr }
      ser := { s.ser with dre := t.ser.dre }
      ghost := { s.ghost with txSink := t.ghost.txSink } }
  | .rbInit .tx .fgAccept => { s with fg := { s.fg with txWptr := t.fg.txWptr } }
  | .rbInit .rx .fgAccept => { s with fg := { s.fg with rxRptr := t.fg.rxRptr } }
  | .rbInit .tx .fgComplete =>
    { s with fg := { s.fg with txRview := t.fg.txRview, qTxr := t.fg.qTxr } }
  | .rbInit .rx .fgComplete =>
    { s with fg := { s.fg with rxWview := t.fg.rxWview, qRxw := t.fg.qRxw } }
  | .rbInit .tx .isrHalf =>
    { s with isr := { s.isr with
        txRptr := t.isr.txRptr, txWview := t.isr.txWview, qTxw := t.isr.qTxw } }
  | .rbInit .rx .isrHalf =>
    { s with isr := { s.isr with
        rxWptr := t.isr.rxWptr, rxRview := t.isr.rxRview, qRxr := t.isr.qRxr } }
  | .rbIsFull _ _ | .rbIsEmpty _ _ | .rbOcc _ _ =>
    { s with ghost := { s.ghost with rbAnswer := t.ghost.rbAnswer } }
  | .rbPush .tx _ _ => { s with fg := { s.fg with txMem := t.fg.txMem, txWptr := t.fg.txWptr } }
  | .rbPush .rx _ _ =>
    { s with isr := { s.isr with
        rxMem := t.isr.rxMem, rxTag := t.isr.rxTag, rxWptr := t.isr.rxWptr } }
  | .rbPop .tx =>
    { s with
      isr := { s.isr with txRptr := t.isr.txRptr }
      ghost := { s.ghost with rbAnswer := t.ghost.rbAnswer } }
  | .rbPop .rx =>
    { s with
      fg := { s.fg with rxRptr := t.fg.rxRptr }
      ghost := { s.ghost with rbAnswer := t.ghost.rbAnswer } }
  | .ctlEnable =>
    { s with isr := { t.isr with
        settleCnt := s.isr.settleCnt, rxMem := s.isr.rxMem, rxTag := s.isr.rxTag
        enReqView := s.isr.enReqView, qReq := s.isr.qReq } }
  | .ctlClose1 => { s with isr := { s.isr with phase := t.isr.phase } }
  | .ctlClose2 => { s with isr := { s.isr with phase := t.isr.phase, settleCnt := t.isr.settleCnt } }
  | .ctlClose3 =>
    { s with
      isr := { s.isr with
        phase := t.isr.phase, settleCnt := t.isr.settleCnt, rxen := t.isr.rxen, txen := t.isr.txen
        rxcie := t.isr.rxcie, dreie := t.isr.dreie, enAck := t.isr.enAck }
      ser := { s.ser with rxc := t.ser.rxc } }
  | .syncTxw _ => { s with isr := { s.isr with txWview := t.isr.txWview, dreie := t.isr.dreie } }
  | .syncTxr _ => { s with fg := { s.fg with txRview := t.fg.txRview } }
  | .syncRxw _ =>
    { s with fg := { s.fg with rxWview := t.fg.rxWview, rxErrView := t.fg.rxErrView } }
  | .syncRxr _ => { s with isr := { s.isr with rxRview := t.isr.rxRview } }
  | .syncReq => { s with isr := { s.isr with enReqView := t.isr.enReqView } }
  | .syncAck => { s with fg := { s.fg with enAckView := t.fg.enAckView } }
  | .envRxArrive _ _ =>
    { s with
      ser := { t.ser with dre := s.ser.dre }
      ghost := { s.ghost with rxSource := t.ghost.rxSource } }
  | .envTxReady => { s with ser := { s.ser with dre := t.ser.dre } }

/-! ### Every operation writes what the table gives it -/

theorem execOpenLine_writes {baud : BitVec 16} (h : execOpenLine baud s = .next t) :
    t = s.writtenBy (.openLine baud) t := by
  rcases execOpenLine_next h with ⟨-, -, rfl⟩ | ⟨-, -, rfl⟩ | ⟨-, rfl⟩ | ⟨-, -, rfl⟩ |
    ⟨-, -, rfl⟩ | ⟨-, -, -, rfl⟩ <;> rfl

theorem execCloseLine_writes (h : execCloseLine s = .next t) : t = s.writtenBy .closeLine t := by
  rcases execCloseLine_next h with ⟨-, -, rfl⟩ | ⟨-, -, rfl⟩ | ⟨-, -, rfl⟩ | ⟨-, -, rfl⟩ |
    ⟨-, -, rfl⟩ | ⟨-, -, rfl⟩ | ⟨-, -, -, rfl⟩ <;> rfl

theorem execSend_writes {b : Byte} (h : execSend b s = .next t) : t = s.writtenBy (.send b) t := by
  rcases execSend_next h with ⟨-, -, rfl⟩ | ⟨-, -, -, rfl⟩ | ⟨-, -, -, rfl⟩ | ⟨-, -, rfl⟩ |
    ⟨-, -, rfl⟩ | ⟨-, -, rfl⟩ <;> rfl

theorem execRead_writes (h : execRead s = .next t) : t = s.writtenBy .read t := by
  rcases execRead_next h with ⟨-, rfl⟩ | ⟨-, -, rfl⟩ | ⟨-, -, -, rfl⟩ |
    ⟨-, -, -, _, _, -, -, rfl⟩ <;> rfl

theorem execIsrRxc_writes (h : execIsrRxc s = .next t) : t = s.writtenBy .isrRxc t := by
  rcases execIsrRxc_next h with ⟨-, rfl⟩ | ⟨-, -, rfl⟩ | ⟨-, -, rfl⟩ <;> rfl

theorem execIsrDre_writes (h : execIsrDre s = .next t) : t = s.writtenBy .isrDre t := by
  rcases execIsrDre_next h with ⟨-, rfl⟩ | ⟨-, -, rfl⟩ | ⟨-, -, _, -, rfl⟩ <;> rfl

theorem execRbInit_writes {b : Buf} {p : InitPart} (h : execRbInit b p s = .next t) :
    t = s.writtenBy (.rbInit b p) t := by
  cases b <;> cases p <;> exact next_inj.1 h ▸ rfl

theorem execRbPush_writes {b : Buf} {d : Byte} {g : Tag} (h : execRbPush b d g s = .next t) :
    t = s.writtenBy (.rbPush b d g) t := by
  rcases execRbPush_next h with ⟨-, rfl⟩ | ⟨-, ⟨rfl, rfl⟩ | ⟨rfl, rfl⟩⟩
  · cases b <;> rfl
  · rfl
  · rfl

theorem execRbPop_writes {b : Buf} (h : execRbPop b s = .next t) :
    t = s.writtenBy (.rbPop b) t := by
  rcases execRbPop_next h with ⟨-, rfl⟩ | ⟨-, ⟨rfl, _, _, hpop, rfl⟩ | ⟨rfl, _, _, _, hpop, rfl⟩⟩
  · cases b <;> rfl
  · obtain ⟨-, rfl⟩ := popTx_ok.1 hpop
    rfl
  · obtain ⟨-, -, rfl⟩ := popRx_ok.1 hpop
    rfl

theorem execCtlClose3_writes (h : execCtlClose3 s = .next t) : t = s.writtenBy .ctlClose3 t := by
  rcases execCtlClose3_next h with ⟨-, rfl⟩ | ⟨-, -, -, rfl⟩ | ⟨-, -, rfl⟩ <;> rfl

theorem exec_writes {i : Instr} (h : exec i s = .next t) : t = s.writtenBy i t := by
  cases i with
  | nop | txstat | rxstat | rsvd7 => rcases atOnce_next h with ⟨-, rfl⟩ | ⟨-, rfl⟩ <;> rfl
  | openLine baud => exact execOpenLine_writes h
  | closeLine => exact execCloseLine_writes h
  | send b => exact execSend_writes h
  | read => exact execRead_writes h
  | isrRxc => exact execIsrRxc_writes h
  | isrDre => exact execIsrDre_writes h
  | rbInit b p => exact execRbInit_writes h
  | rbPush b d g => exact execRbPush_writes h
  | rbPop b => exact execRbPop_writes h
  | ctlEnable => rcases execCtlEnable_next h with ⟨-, -, rfl⟩ | ⟨-, rfl⟩ <;> rfl
  | ctlClose1 => rcases execCtlClose1_next h with ⟨-, -, rfl⟩ | ⟨-, rfl⟩ <;> rfl
  | ctlClose2 => rcases execCtlClose2_next h with ⟨-, -, rfl⟩ | ⟨-, rfl⟩ <;> rfl
  | ctlClose3 => exact execCtlClose3_writes h
  | syncTxw x => rcases execSyncTxw_next h with ⟨-, -, rfl⟩ | ⟨-, rfl⟩ <;> rfl
  | syncTxr x => rcases execSyncTxr_next h with ⟨-, -, rfl⟩ | ⟨-, rfl⟩ <;> rfl
  | syncRxw x => rcases execSyncRxw_next h with ⟨-, -, _, -, rfl⟩ | ⟨-, rfl⟩ <;> rfl
  | syncRxr x => rcases execSyncRxr_next h with ⟨-, -, rfl⟩ | ⟨-, rfl⟩ <;> rfl
  | envRxArrive d e => rcases execEnvRxArrive_next h with ⟨-, -, rfl⟩ | ⟨-, rfl⟩ <;> rfl
  | envTxReady => rcases execEnvTxReady_next h with ⟨-, -, rfl⟩ | ⟨-, rfl⟩ <;> rfl
  | sendseq | rbIsFull | rbIsEmpty | rbOcc | syncReq | syncAck => exact next_inj.1 h ▸ rfl

/-- A part of the state that the table does not give to an operation stays as it was. -/
theorem exec_keeps {α : Type} {i : Instr} (f : State → α) (hf : f (s.writtenBy i t) = f s)
    (h : exec i s = .next t) : f t = f s :=
  (congrArg f (exec_writes h)).trans hf

/-- Case analysis on an operation, with the ring-buffer primitives told apart as the table tells them
apart: by their buffer and part. -/
theorem cases_by_buffer {P : Instr → Prop}
    (nop : P .nop) (openLine : ∀ baud, P (.openLine baud)) (closeLine : P .closeLine)
    (send : ∀ b, P (.send b)) (read : P .read) (txstat : P .txstat) (rxstat : P .rxstat)
    (rsvd7 : P .rsvd7) (sendseq : ∀ bs, P (.sendseq bs)) (isrRxc : P .isrRxc) (isrDre : P .isrDre)
    (rbIsFull : ∀ b d, P (.rbIsFull b d)) (rbIsEmpty : ∀ b d, P (.rbIsEmpty b d))
    (rbOcc : ∀ b d, P (.rbOcc b d)) (ctlEnable : P .ctlEnable) (ctlClose1 : P .ctlClose1)
    (ctlClose2 : P .ctlClose2) (ctlClose3 : P .ctlClose3) (syncTxw : ∀ x, P (.syncTxw x))
    (syncTxr : ∀ x, P (.syncTxr x)) (syncRxw : ∀ x, P (.syncRxw x))
    (syncRxr : ∀ x, P (.syncRxr x)) (syncReq : P .syncReq) (syncAck : P .syncAck)
    (envRxArrive : ∀ d e, P (.envRxArrive d e)) (envTxReady : P .envTxReady)
    (rbInitTxAccept : P (.rbInit .tx .fgAccept)) (rbInitTxComplete : P (.rbInit .tx .fgComplete))
    (rbInitTxIsrHalf : P (.rbInit .tx .isrHalf)) (rbPushTx : ∀ d g, P (.rbPush .tx d g))
    (rbPopTx : P (.rbPop .tx)) (rbInitRxAccept : P (.rbInit .rx .fgAccept))
    (rbInitRxComplete : P (.rbInit .rx .fgComplete)) (rbInitRxIsrHalf : P (.rbInit .rx .isrHalf))
    (rbPushRx : ∀ d g, P (.rbPush .rx d g)) (rbPopRx : P (.rbPop .rx))
    (i : Instr) : P i := by
  cases i with
  | rbInit b p => cases b <;> cases p <;> assumption
  | rbPush b d g => cases b <;> apply_assumption
  | rbPop b => cases b <;> assumption
  | _ => apply_assumption

/-! ### Each domain writes its own registers -/

theorem exec_fgCommand_frame {i : Instr} (hi : Safety.isFgCommand i) (h : exec i s = .next t) :
    t.isr = s.isr ∧ t.ser = s.ser ∧ t.host = s.host ∧
      t.ghost.txSink = s.ghost.txSink ∧ t.ghost.rxSource = s.ghost.rxSource := by
  cases i with
  | nop | openLine | closeLine | send | read | txstat | rxstat | rsvd7 =>
    exact ⟨exec_keeps (·.isr) rfl h, exec_keeps (·.ser) rfl h, exec_keeps (·.host) rfl h,
      exec_keeps (·.ghost.txSink) rfl h, exec_keeps (·.ghost.rxSource) rfl h⟩
  | _ => exact hi.elim

theorem exec_isrOperation_frame {i : Instr} (hi : Safety.isIsrOperation i) (h : exec i s = .next t) :
    t.fg = s.fg ∧ t.host = s.host ∧ t.ghost.rxSource = s.ghost.rxSource := by
  cases i with
  | isrRxc | isrDre | ctlEnable | ctlClose1 | ctlClose2 | ctlClose3 =>
    exact ⟨exec_keeps (·.fg) rfl h, exec_keeps (·.host) rfl h, exec_keeps (·.ghost.rxSource) rfl h⟩
  | _ => exact hi.elim

/-- A crossing into the interrupt domain writes that domain alone. -/
theorem exec_syncIntoIsr_frame {i : Instr}
    (hi : (∃ x, i = .syncTxw x ∨ i = .syncRxr x) ∨ i = .syncReq) (h : exec i s = .next t) :
    t.fg = s.fg ∧ t.ser = s.ser ∧ t.host = s.host ∧ t.ghost = s.ghost := by
  rcases hi with ⟨_, rfl | rfl⟩ | rfl <;>
    exact ⟨exec_keeps (·.fg) rfl h, exec_keeps (·.ser) rfl h, exec_keeps (·.host) rfl h,
      exec_keeps (·.ghost) rfl h⟩

/-- A crossing into the foreground domain writes that domain alone. -/
theorem exec_syncIntoFg_frame {i : Instr}
    (hi : (∃ x, i = .syncTxr x ∨ i = .syncRxw x) ∨ i = .syncAck) (h : exec i s = .next t) :
    t.isr = s.isr ∧ t.ser = s.ser ∧ t.host = s.host ∧ t.ghost = s.ghost := by
  rcases hi with ⟨_, rfl | rfl⟩ | rfl <;>
    exact ⟨exec_keeps (·.isr) rfl h, exec_keeps (·.ser) rfl h, exec_keeps (·.host) rfl h,
      exec_keeps (·.ghost) rfl h⟩

theorem exec_environment_frame {i : Instr} (hi : (∃ d e, i = .envRxArrive d e) ∨ i = .envTxReady)
    (h : exec i s = .next t) : t.fg = s.fg ∧ t.isr = s.isr ∧ t.host = s.host := by
  rcases hi with ⟨_, _, rfl⟩ | rfl <;>
    exact ⟨exec_keeps (·.fg) rfl h, exec_keeps (·.isr) rfl h, exec_keeps (·.host) rfl h⟩

theorem exec_schedule_frame {i : Instr} (h : exec i s = .next t) :
    t.sched = s.sched ∧ t.tick = s.tick ∧ t.stream = s.stream := by
  cases i using cases_by_buffer <;>
    exact ⟨exec_keeps (·.sched) rfl h, exec_keeps (·.tick) rfl h, exec_keeps (·.stream) rfl h⟩

/-- Settles O36: the single-writer table gives an operation no part outside its own domain. -/
theorem domainsKeepApart : Obligations.DomainsKeepApart := fun _ _ _ h =>
  ⟨fun hi => exec_fgCommand_frame hi h, fun hi => exec_isrOperation_frame hi h,
    fun hi => exec_syncIntoIsr_frame hi h, fun hi => exec_syncIntoFg_frame hi h,
    fun hi => exec_environment_frame hi h, exec_schedule_frame h⟩

end Sys2Proof.Machine

namespace Sys2Proof.Safety

open Sys2Proof.Machine

variable {i : Instr}

/-! ### Who writes a storage, a pointer or a view -/

/-- The operation is not a writer of a part that the single-writer table does not give it. -/
theorem not_writes {α : Type} {f : State → α} (hf : ∀ s t : State, f (s.writtenBy i t) = f s) :
    ¬Writes i f :=
  fun ⟨s, t, hexec, hne⟩ => hne (exec_keeps f (hf s t) hexec)

theorem txMem_writer (h : Writes i (·.fg.txMem)) :
    (∃ b, i = .send b) ∨ ∃ d t, i = .rbPush .tx d t := by
  cases i using cases_by_buffer with
  | send b => exact .inl ⟨b, rfl⟩
  | rbPushTx d g => exact .inr ⟨d, g, rfl⟩
  | _ => exact absurd h (not_writes fun _ _ => rfl)

theorem txWptr_writer (h : Writes i (·.fg.txWptr)) :
    (∃ b, i = .send b) ∨ (∃ b, i = .openLine b) ∨
      (∃ d t, i = .rbPush .tx d t) ∨ i = .rbInit .tx .fgAccept := by
  cases i using cases_by_buffer with
  | send b => exact .inl ⟨b, rfl⟩
  | openLine baud => exact .inr (.inl ⟨baud, rfl⟩)
  | rbPushTx d g => exact .inr (.inr (.inl ⟨d, g, rfl⟩))
  | rbInitTxAccept => exact .inr (.inr (.inr rfl))
  | _ => exact absurd h (not_writes fun _ _ => rfl)

theorem txRptr_writer (h : Writes i (·.isr.txRptr)) :
    i = .isrDre ∨ i = .ctlEnable ∨ i = .rbPop .tx ∨ i = .rbInit .tx .isrHalf := by
  cases i using cases_by_buffer with
  | isrDre => exact .inl rfl
  | ctlEnable => exact .inr (.inl rfl)
  | rbPopTx => exact .inr (.inr (.inl rfl))
  | rbInitTxIsrHalf => exact .inr (.inr (.inr rfl))
  | _ => exact absurd h (not_writes fun _ _ => rfl)

theorem txWview_writer (h : Writes i (·.isr.txWview)) :
    (∃ x, i = .syncTxw x) ∨ i = .ctlEnable ∨ i = .rbInit .tx .isrHalf := by
  cases i using cases_by_buffer with
  | syncTxw x => exact .inl ⟨x, rfl⟩
  | ctlEnable => exact .inr (.inl rfl)
  | rbInitTxIsrHalf => exact .inr (.inr rfl)
  | _ => exact absurd h (not_writes fun _ _ => rfl)

theorem txRview_writer (h : Writes i (·.fg.txRview)) :
    (∃ x, i = .syncTxr x) ∨ (∃ b, i = .openLine b) ∨ i = .rbInit .tx .fgComplete := by
  cases i using cases_by_buffer with
  | syncTxr x => exact .inl ⟨x, rfl⟩
  | openLine baud => exact .inr (.inl ⟨baud, rfl⟩)
  | rbInitTxComplete => exact .inr (.inr rfl)
  | _ => exact absurd h (not_writes fun _ _ => rfl)

theorem rxStorage_writer (h : Writes i (fun s => (s.isr.rxMem, s.isr.rxTag))) :
    i = .isrRxc ∨ ∃ d t, i = .rbPush .rx d t := by
  cases i using cases_by_buffer with
  | isrRxc => exact .inl rfl
  | rbPushRx d g => exact .inr ⟨d, g, rfl⟩
  | _ => exact absurd h (not_writes fun _ _ => rfl)

theorem rxWptr_writer (h : Writes i (·.isr.rxWptr)) :
    i = .isrRxc ∨ i = .ctlEnable ∨ (∃ d t, i = .rbPush .rx d t) ∨ i = .rbInit .rx .isrHalf := by
  cases i using cases_by_buffer with
  | isrRxc => exact .inl rfl
  | ctlEnable => exact .inr (.inl rfl)
  | rbPushRx d g => exact .inr (.inr (.inl ⟨d, g, rfl⟩))
  | rbInitRxIsrHalf => exact .inr (.inr (.inr rfl))
  | _ => exact absurd h (not_writes fun _ _ => rfl)

theorem rxRptr_writer (h : Writes i (·.fg.rxRptr)) :
    i = .read ∨ (∃ b, i = .openLine b) ∨ i = .rbPop .rx ∨ i = .rbInit .rx .fgAccept := by
  cases i using cases_by_buffer with
  | read => exact .inl rfl
  | openLine baud => exact .inr (.inl ⟨baud, rfl⟩)
  | rbPopRx => exact .inr (.inr (.inl rfl))
  | rbInitRxAccept => exact .inr (.inr (.inr rfl))
  | _ => exact absurd h (not_writes fun _ _ => rfl)

theorem rxWview_writer (h : Writes i (·.fg.rxWview)) :
    (∃ x, i = .syncRxw x) ∨ (∃ b, i = .openLine b) ∨ i = .rbInit .rx .fgComplete := by
  cases i using cases_by_buffer with
  | syncRxw x => exact .inl ⟨x, rfl⟩
  | openLine baud => exact .inr (.inl ⟨baud, rfl⟩)
  | rbInitRxComplete => exact .inr (.inr rfl)
  | _ => exact absurd h (not_writes fun _ _ => rfl)

theorem rxRview_writer (h : Writes i (·.isr.rxRview)) :
    (∃ x, i = .syncRxr x) ∨ i = .ctlEnable ∨ i = .rbInit .rx .isrHalf := by
  cases i using cases_by_buffer with
  | syncRxr x => exact .inl ⟨x, rfl⟩
  | ctlEnable => exact .inr (.inl rfl)
  | rbInitRxIsrHalf => exact .inr (.inr rfl)
  | _ => exact absurd h (not_writes fun _ _ => rfl)

/-- Settles O37: each part's writers are the operations the single-writer table gives it. -/
theorem storagesHaveOneWriter : Obligations.StoragesHaveOneWriter := fun _ =>
  ⟨txMem_writer, txWptr_writer, txRptr_writer, txWview_writer, txRview_writer, rxStorage_writer,
    rxWptr_writer, rxRptr_writer, rxWview_writer, rxRview_writer⟩

/-! ### Who writes a register -/

theorem errorState_writer (h : Writes i (fun s => (s.isr.lastRxError, s.isr.rxDropPending))) :
    i = .isrRxc ∨ i = .ctlEnable := by
  cases i using cases_by_buffer with
  | isrRxc => exact .inl rfl
  | ctlEnable => exact .inr rfl
  | _ => exact absurd h (not_writes fun _ _ => rfl)

theorem rxErrView_writer (h : Writes i (·.fg.rxErrView)) :
    (∃ x, i = .syncRxw x) ∨ ∃ b, i = .openLine b := by
  cases i using cases_by_buffer with
  | syncRxw x => exact .inl ⟨x, rfl⟩
  | openLine baud => exact .inr ⟨baud, rfl⟩
  | _ => exact absurd h (not_writes fun _ _ => rfl)

theorem lineOpen_writer (h : Writes i (·.fg.lineOpen)) :
    (∃ b, i = .openLine b) ∨ i = .closeLine := by
  cases i using cases_by_buffer with
  | openLine baud => exact .inl ⟨baud, rfl⟩
  | closeLine => exact .inr rfl
  | _ => exact absurd h (not_writes fun _ _ => rfl)

theorem fgSequencer_writer (h : Writes i (fun s => (s.fg.phase, s.fg.cmdHold, s.fg.rsp, s.fg.rspValid))) :
    isFgCommand i := by
  cases i using cases_by_buffer with
  | nop | openLine | closeLine | send | read | txstat | rxstat | rsvd7 => exact trivial
  | _ => exact absurd h (not_writes fun _ _ => rfl)

theorem openOutputs_writer (h : Writes i (fun s => (s.fg.baudHold, s.fg.portcfg))) :
    ∃ b, i = .openLine b := by
  cases i using cases_by_buffer with
  | openLine baud => exact ⟨baud, rfl⟩
  | _ => exact absurd h (not_writes fun _ _ => rfl)

theorem enReq_writer (h : Writes i (·.fg.enReq)) :
    (∃ b, i = .openLine b) ∨ i = .closeLine := by
  cases i using cases_by_buffer with
  | openLine baud => exact .inl ⟨baud, rfl⟩
  | closeLine => exact .inr rfl
  | _ => exact absurd h (not_writes fun _ _ => rfl)

theorem enReqView_writer (h : Writes i (·.isr.enReqView)) :
    i = .syncReq := by
  cases i using cases_by_buffer with
  | syncReq => exact rfl
  | _ => exact absurd h (not_writes fun _ _ => rfl)

theorem enAck_writer (h : Writes i (·.isr.enAck)) :
    i = .ctlEnable ∨ i = .ctlClose3 := by
  cases i using cases_by_buffer with
  | ctlEnable => exact .inl rfl
  | ctlClose3 => exact .inr rfl
  | _ => exact absurd h (not_writes fun _ _ => rfl)

theorem enAckView_writer (h : Writes i (·.fg.enAckView)) :
    i = .syncAck := by
  cases i using cases_by_buffer with
  | syncAck => exact rfl
  | _ => exact absurd h (not_writes fun _ _ => rfl)

theorem isrSequencer_writer (h : Writes i (fun s => (s.isr.phase, s.isr.settleCnt))) :
    i = .ctlEnable ∨ i = .ctlClose1 ∨ i = .ctlClose2 ∨ i = .ctlClose3 := by
  cases i using cases_by_buffer with
  | ctlEnable => exact .inl rfl
  | ctlClose1 => exact .inr (.inl rfl)
  | ctlClose2 => exact .inr (.inr (.inl rfl))
  | ctlClose3 => exact .inr (.inr (.inr rfl))
  | _ => exact absurd h (not_writes fun _ _ => rfl)

theorem enables_writer (h : Writes i (fun s => (s.isr.rxen, s.isr.txen, s.isr.rxcie))) :
    i = .ctlEnable ∨ i = .ctlClose3 := by
  cases i using cases_by_buffer with
  | ctlEnable => exact .inl rfl
  | ctlClose3 => exact .inr rfl
  | _ => exact absurd h (not_writes fun _ _ => rfl)

theorem baud_writer (h : Writes i (·.isr.baud)) :
    i = .ctlEnable := by
  cases i using cases_by_buffer with
  | ctlEnable => exact rfl
  | _ => exact absurd h (not_writes fun _ _ => rfl)

theorem dreie_writer (h : Writes i (·.isr.dreie)) :
    (∃ x, i = .syncTxw x) ∨ i = .isrDre ∨ i = .ctlEnable ∨ i = .ctlClose3 := by
  cases i using cases_by_buffer with
  | syncTxw x => exact .inl ⟨x, rfl⟩
  | isrDre => exact .inr (.inl rfl)
  | ctlEnable => exact .inr (.inr (.inl rfl))
  | ctlClose3 => exact .inr (.inr (.inr rfl))
  | _ => exact absurd h (not_writes fun _ _ => rfl)

/-- Settles O38: each register's writers are the operations the single-writer table gives it. -/
theorem registersHaveOneWriter : Obligations.RegistersHaveOneWriter := fun _ =>
  ⟨errorState_writer, rxErrView_writer, lineOpen_writer, fgSequencer_writer, openOutputs_writer,
    enReq_writer, enReqView_writer, enAck_writer, enAckView_writer, isrSequencer_writer,
    enables_writer, baud_writer, dreie_writer⟩

end Sys2Proof.Safety
end

section
/-! PROOFS: the state after reset (10_state.md R41, 70_reset_and_hazards.md R301). -/

namespace Sys2Proof.Machine

theorem gray_zero : gray 0 = 0 := by decide

theorem ctrlWord_resetWith (c : Params) : (State.resetWith c).ctrlWord = 0x0#4 := by
  simp [State.ctrlWord, State.resetWith, IsrRegs.reset]

/-- Just after reset a buffer is empty and not full, and its line is Closed. -/
theorem statOf_resetWith (c : Params) (b : Buf) : (State.resetWith c).statOf b = 0x6000#16 := by
  have hocc : (State.resetWith c).occOf b .fg = 0 := by cases b <;> exact occ_self _ 0
  have hfull : (State.resetWith c).isFull b .fg = false := by
    rw [State.isFull, hocc]
    exact decide_eq_false (capacity_pos _).ne
  have hempty : (State.resetWith c).isEmpty b .fg = true := by cases b <;> rfl
  have hclosed : (State.resetWith c).fg.lineOpen = false := rfl
  rw [State.statOf, hfull, hempty, hocc, hclosed]
  decide

/-- The first response of each command that answers on a Closed line (vector V77). -/
theorem exec_resetWith (c : Params) {i : Instr} {v : RspWord}
    (h : (i, v) ∈ [(Instr.nop, 0x0000#16), (.txstat, 0x6000#16), (.rxstat, 0x6000#16),
      (.read, 0x2100#16), (.send 0x00#8, 0x2000#16), (.closeLine, 0x2000#16),
      (.rsvd7, 0x8000#16)]) :
    exec i (State.resetWith c) = .next ((State.resetWith c).respond v) := by
  simp only [List.mem_cons, Prod.mk.injEq, List.not_mem_nil, or_false] at h
  rcases h with ⟨rfl, rfl⟩ | ⟨rfl, rfl⟩ | ⟨rfl, rfl⟩ | ⟨rfl, rfl⟩ | ⟨rfl, rfl⟩ | ⟨rfl, rfl⟩ |
    ⟨rfl, rfl⟩
  case inr.inl => rw [← statOf_resetWith c .tx]; rfl
  case inr.inr.inl => rw [← statOf_resetWith c .rx]; rfl
  all_goals rfl

/-- Settles O58: the registers, the outputs and the views are those `State.resetWith` writes out; the
responses are those of an idle port on a Closed line. -/
theorem stateAfterReset : Obligations.StateAfterReset := by
  rintro c s rfl
  refine ⟨?_, ?_, ?_, ?_, fun i v h => exec_resetWith c h⟩
  · exact ⟨rfl, rfl, rfl, rfl, rfl, rfl, rfl, rfl, rfl, rfl, rfl, rfl, rfl, rfl, rfl, rfl, rfl,
      gray_zero, gray_zero⟩
  · exact ⟨rfl, rfl, rfl, ctrlWord_resetWith c, rfl, rfl, rfl, rfl, rfl, rfl, rfl, rfl, rfl, rfl, rfl,
      gray_zero, gray_zero⟩
  · exact ⟨rfl, rfl, rfl, rfl, rfl⟩
  · exact ⟨rfl, rfl, rfl, rfl, rfl, rfl, rfl, rfl, rfl, rfl, rfl⟩

end Sys2Proof.Machine
end

section
/-! PROOFS: the lines of a device share nothing (10_state.md R42, 60_exceptions.md R276). -/

namespace Sys2Proof.Machine

variable {ls ls' : Lines} {k : Nat} {d : DeviceParams}

/-- A step of line `k` replaces that line's state by the one its own step leads to. -/
theorem stepAt_of_some {s : State} (hs : ls[k]? = some s) (h : ls.stepAt k = .next ls') :
    ∃ t, step s = .next t ∧ ls' = ls.set k t := by
  simp only [Lines.stepAt, hs] at h
  cases hstep : step s <;> simp only [hstep, reduceCtorEq] at h
  next t =>
    injection h with h
    exact ⟨t, rfl, h.symm⟩

theorem stepAt_of_none (hs : ls[k]? = none) (h : ls.stepAt k = .next ls') : ls' = ls := by
  simp only [Lines.stepAt, hs] at h
  injection h with h
  exact h.symm

/-- A step of an index changes at most the line there, and leaves as many lines. -/
theorem stepAt_frame (h : ls.stepAt k = .next ls') :
    ls'.length = ls.length ∧ ∀ j, j ≠ k → ls'[j]? = ls[j]? := by
  cases hs : ls[k]? with
  | none => exact stepAt_of_none hs h ▸ ⟨rfl, fun _ _ => rfl⟩
  | some s =>
    obtain ⟨t, -, rfl⟩ := stepAt_of_some hs h
    exact ⟨List.length_set, fun j hj => List.getElem?_set_ne hj.symm⟩

theorem stepAt_self {s : State} (hs : ls[k]? = some s) (h : ls.stepAt k = .next ls') :
    ∃ t, step s = .next t ∧ ls'[k]? = some t := by
  obtain ⟨t, hstep, rfl⟩ := stepAt_of_some hs h
  obtain ⟨hk, -⟩ := List.getElem?_eq_some_iff.1 hs
  exact ⟨t, hstep, List.getElem?_set_self hk⟩

theorem lines_wellFormed_iff : Lines.wellFormed d ls = true ↔
    d.wellFormed = true ∧ ls.length = d.numLines ∧ ∀ s ∈ ls, s.cfg = d.line := by
  simp [Lines.wellFormed, and_assoc]

theorem lines_reset_getElem? (h : k < d.numLines) :
    (Lines.reset d)[k]? = some { State.resetWith d.line with stream := k } := by
  simp [Lines.reset, h]

theorem lines_reset_wellFormed (h : d.wellFormed = true) : Lines.wellFormed d (Lines.reset d) = true := by
  refine lines_wellFormed_iff.2 ⟨h, by simp [Lines.reset], fun s hs => ?_⟩
  obtain ⟨k, -, rfl⟩ := List.mem_map.1 hs
  rfl

/-- A step keeps every line's parameters: the one that steps keeps its own (00_scope.md R6). -/
theorem stepAt_wellFormed (hwf : Lines.wellFormed d ls = true) (h : ls.stepAt k = .next ls') :
    Lines.wellFormed d ls' = true := by
  obtain ⟨hd, hlen, hcfg⟩ := lines_wellFormed_iff.1 hwf
  refine lines_wellFormed_iff.2 ⟨hd, (stepAt_frame h).1.trans hlen, fun u hu => ?_⟩
  cases hs : ls[k]? with
  | none => exact hcfg u (stepAt_of_none hs h ▸ hu)
  | some s =>
    obtain ⟨t, hstep, rfl⟩ := stepAt_of_some hs h
    rcases List.mem_or_eq_of_mem_set hu with hu | rfl
    · exact hcfg u hu
    · exact (step_sameLine hstep).1.trans (hcfg s (List.mem_of_getElem? hs))

theorem lines_one_le_length (hwf : Lines.wellFormed d ls = true) : 1 ≤ ls.length := by
  obtain ⟨hd, hlen, -⟩ := lines_wellFormed_iff.1 hwf
  have hnum : 1 ≤ d.numLines := of_decide_eq_true (Bool.and_eq_true_iff.1 hd).1
  exact hlen ▸ hnum

/-- Settles O41: a step of the device is a step of one line, put in that line's place. -/
theorem linesIndependent : Obligations.LinesIndependent := by
  refine ⟨fun ls ls' k h => ?_, fun d k h => lines_reset_getElem? h, fun d h => lines_reset_wellFormed h,
    fun d ls ls' k hwf h => ?_, rfl, fun s t => ⟨nextEvent_of_no_sched, fun h => (step_sameLine h).2⟩⟩
  · obtain ⟨hlen, hothers⟩ := stepAt_frame h
    exact ⟨hlen, hothers, fun s hs => stepAt_self hs h⟩
  · have hwf' := stepAt_wellFormed hwf h
    exact ⟨hwf', lines_one_le_length hwf'⟩

end Sys2Proof.Machine
end

section
/-! PROOFS: both buffers are first in, first out (20_memory.md R80, 40_ring_buffer.md R148). The two
obligations read the same three sequences, kept together as `fifos`: a push, a pop and a hand-over each say
once what they do to it, and every other operation leaves it alone. -/

namespace Sys2Proof.Safety

open Sys2Proof.Machine

variable {s t : State} {b : Byte} {g : Tag}

/-- The sequences of 20_memory.md R80: the bytes handed over and unsent, the unread bytes, their tags. -/
structure Fifos where
  tx : List (Option Byte)
  rx : List (Option Byte)
  tags : List (Option Tag)

/-- The sequences as they stand in a state. -/
def fifos (s : State) : Fifos := ⟨txStream s, rxQueue s, rxTags s⟩

/-! ### What a push, a pop and a hand-over do to the sequences -/

theorem Inv.fifos_pushTx (h : Inv s) (hp : ¬Opening s) (hf : s.txFullFg = false) (b : Byte) :
    fifos (s.pushTx b) = ⟨txStream s ++ [some b], rxQueue s, rxTags s⟩ := by
  have hroom := (h.ordered hp).tx.count_lt h.nTx_le h.shape.txWptr h.shape.txRptr h.txWview
    (of_decide_eq_false hf)
  have hqueue : txQueue (s.pushTx b) = txQueue s ++ [some b] :=
    contents_push h.nTx_le h.shape.txWptr h.shape.txRptr hroom
  have hstream : txStream (s.pushTx b) = txStream s ++ [some b] := by
    rw [txStream, hqueue, ← List.append_assoc]; rfl
  exact congrArg (Fifos.mk · _ _) hstream

theorem Inv.fifos_storeRx (h : Inv s) (hp : ¬Opening s) (hf : s.rxFullIsr = false) :
    fifos s.storeRx = ⟨txStream s, rxQueue s ++ [some s.ser.rxData],
      rxTags s ++ [some (rxTagOf s.isr.rxDropPending s.ser.rxErr)]⟩ := by
  have hroom := (h.ordered hp).rx.count_lt h.nRx_le h.shape.rxWptr h.shape.rxRptr h.rxWview
    (of_decide_eq_false hf)
  exact congrArg₂ (Fifos.mk _) (contents_push h.nRx_le h.shape.rxWptr h.shape.rxRptr hroom)
    (contents_push h.nRx_le h.shape.rxWptr h.shape.rxRptr hroom)

/-- A hand-over moves the oldest unsent byte to the end of the bytes handed over. -/
theorem Inv.fifos_handOver (h : Inv s) (hp : ¬Opening s) (he : s.txEmptyIsr = false)
    (hpop : s.popTx = .ok (b, t)) : fifos (t.handOver b) = fifos s := by
  obtain ⟨hb, rfl⟩ := popTx_ok.1 hpop
  have hne := (h.ordered hp).tx.count_ne h.nTx_le h.shape.txWptr h.shape.txRptr h.txWview
    (of_decide_eq_false he)
  have hqueue := contents_pop (m := (s.fg.txMem : Mem 8)) h.nTx_le h.shape.txWptr h.shape.txRptr hne
  rw [hb] at hqueue
  refine congrArg (Fifos.mk · _ _) ?_
  simp [txStream, txQueue, hqueue]

theorem Inv.rx_of_popRx (h : Inv s) (hp : ¬Opening s) (he : s.rxEmptyFg = false)
    (hpop : s.popRx = .ok (b, g, t)) :
    rxQueue s = some b :: rxQueue t ∧ rxTags s = some g :: rxTags t := by
  obtain ⟨hb, hg, rfl⟩ := popRx_ok.1 hpop
  have hne := (h.ordered hp).rx.count_ne h.nRx_le h.shape.rxWptr h.shape.rxRptr h.rxWview
    (of_decide_eq_false he)
  exact ⟨hb ▸ contents_pop h.nRx_le h.shape.rxWptr h.shape.rxRptr hne,
    hg ▸ contents_pop h.nRx_le h.shape.rxWptr h.shape.rxRptr hne⟩

/-! ### The three steps that extend or shorten a sequence -/

/-- FG's next step completes the SEND of `b` (41_fg_commands.md R174). -/
def SendCompletes (s : State) (b : Byte) : Prop :=
  s.txFullFg = false ∧
    ((s.fg.phase = .sendWait ∧ s.fg.cmdHold = b) ∨
     (s.fg.phase = .idle ∧ s.host.cmdValid = true ∧ s.fg.lineOpen = true ∧
       decodeCmd s.host.cmd = .send b))

/-- FG's next step is a READ that returns a byte (41_fg_commands.md R176). -/
abbrev ReadReturns (s : State) : Prop :=
  s.fg.phase = .idle ∧ s.host.cmdValid = true ∧ decodeCmd s.host.cmd = .read ∧
    s.fg.lineOpen = true ∧ s.rxEmptyFg = false

/-- The next `ISR.RXC` stores its byte (42_isr_handlers.md R201). -/
abbrev RxcStores (s : State) : Prop := s.irqRx = true ∧ s.rxFullIsr = false

theorem completedSend_eq_some : completedSend s = some b ↔ s.nextEvent = .fg ∧ SendCompletes s b := by
  unfold completedSend SendCompletes
  by_cases hg : s.nextEvent = .fg ∧ s.txFullFg = false
  · rw [if_pos hg]
    cases hp : s.fg.phase <;> simp [hg]
    cases hi : decodeCmd s.host.cmd <;> simp [and_assoc]
  · rw [if_neg hg]
    simp only [reduceCtorEq, false_iff]
    exact fun ⟨hev, hf, _⟩ => hg ⟨hev, hf⟩

theorem Inv.fgStep_of_sendCompletes (h : Inv s) (hsend : SendCompletes s b)
    (he : fgStep s = .next t) : fifos t = ⟨txStream s ++ [some b], rxQueue s, rxTags s⟩ := by
  obtain ⟨hf, ⟨hp, rfl⟩ | ⟨hp, hv, ho, hi⟩⟩ := hsend
  · have hstep : fgStep s = .next ((s.pushTx s.fg.cmdHold).respond rspDone) := by
      simp [fgStep, State.inProgress, hp, exec, execSend, hf]
    obtain rfl := next_inj.1 (hstep.symm.trans he)
    exact h.fifos_pushTx (by simp [hp]) hf _
  · have hstep : fgStep s = .next ((s.accept.pushTx b).respond rspDone) := by
      have hf' : s.accept.txFullFg = false := hf
      simp [fgStep, State.inProgress, hp, hv, hi, exec, execSend, ho, hf']
    obtain rfl := next_inj.1 (hstep.symm.trans he)
    exact h.accept.fifos_pushTx (by simp [hp]) hf b

theorem Inv.fgStep_of_readReturns (h : Inv s) (hread : ReadReturns s) (he : fgStep s = .next t) :
    ∃ b g, rxQueue s = some b :: rxQueue t ∧ rxTags s = some g :: rxTags t ∧
      txStream t = txStream s ∧ t.fg.rspValid = true ∧
      t.fg.rsp = rspData (readFlags s.cfg.errTagMode g s.fg.rxErrView) b := by
  obtain ⟨hp, hv, hi, ho, hne⟩ := hread
  have hstep : fgStep s = execRead s.accept := by
    simp [fgStep, State.inProgress, hp, hv, hi, exec]
  rw [hstep] at he
  have htx : txStream t = txStream s := exec_keeps (s := s.accept) (i := .read) txStream rfl he
  rcases execRead_next he with ⟨hbusy, -⟩ | ⟨-, hclosed, -⟩ | ⟨-, -, hempty, -⟩ |
    ⟨-, -, -, b, g, hb, hg, rfl⟩
  · exact absurd hp hbusy
  · simp [ho] at hclosed
  · exact absurd (hempty.symm.trans hne) nofun
  · obtain ⟨hrx, htags⟩ := h.rx_of_popRx (by simp [hp]) hne (popRx_ok.2 ⟨hb, hg, rfl⟩)
    exact ⟨b, g, hrx, htags, htx, rfl, rfl⟩

theorem Inv.execIsrRxc_of_rxcStores (h : Inv s) (hp : ¬Opening s) (hstore : RxcStores s)
    (he : execIsrRxc s = .next t) :
    fifos t = ⟨txStream s, rxQueue s ++ [some s.ser.rxData],
      rxTags s ++ [some (rxTagOf s.isr.rxDropPending s.ser.rxErr)]⟩ := by
  obtain ⟨hirq, hf⟩ := hstore
  rcases execIsrRxc_next he with ⟨hoff, -⟩ | ⟨-, hfull, -⟩ | ⟨-, -, rfl⟩
  · simp [hirq] at hoff
  · simp [hf] at hfull
  · exact h.fifos_storeRx hp hf

/-! ### Every other step leaves the sequences alone -/

/-- OPEN changes a sequence only where it begins, by zeroing the foreground's pointers. -/
theorem execOpenLine_keeps_fifos {baud : BitVec 16} (hp : ¬Opening t)
    (he : execOpenLine baud s = .next t) : fifos t = fifos s := by
  rcases execOpenLine_next he with ⟨-, -, rfl⟩ | ⟨-, -, rfl⟩ | ⟨-, rfl⟩ | ⟨-, -, rfl⟩ |
    ⟨-, -, rfl⟩ | ⟨-, -, -, rfl⟩
  case inr.inl => exact absurd (.inl rfl) hp
  all_goals rfl

theorem execSend_keeps_fifos
    (hidle : s.fg.phase = .idle → s.fg.lineOpen = true → s.txFullFg = true)
    (hwait : s.fg.phase = .sendWait → s.txFullFg = true) (he : execSend b s = .next t) :
    fifos t = fifos s := by
  rcases execSend_next he with ⟨-, -, rfl⟩ | ⟨-, -, -, rfl⟩ | ⟨hp, ho, hf, -⟩ | ⟨-, -, rfl⟩ |
    ⟨hp, hf, -⟩ | ⟨-, -, rfl⟩
  case inr.inr.inl => simp [hidle hp ho] at hf
  case inr.inr.inr.inr.inl => simp [hwait hp] at hf
  all_goals rfl

theorem execRead_keeps_fifos
    (hempty : s.fg.phase = .idle → s.fg.lineOpen = true → s.rxEmptyFg = true)
    (he : execRead s = .next t) : fifos t = fifos s := by
  rcases execRead_next he with ⟨-, rfl⟩ | ⟨-, -, rfl⟩ | ⟨-, -, -, rfl⟩ | ⟨hp, ho, hne, -⟩
  case inr.inr.inr => simp [hempty hp ho] at hne
  all_goals rfl

/-- An accepted command that is no SEND that stores and no READ that returns a byte. -/
theorem accepted_keeps_fifos (hidle : s.fg.phase = .idle) (hv : s.host.cmdValid = true)
    (hsend : ∀ b, ¬SendCompletes s b) (hread : ¬ReadReturns s) (hp : ¬Opening t)
    (he : exec (decodeCmd s.host.cmd) s.accept = .next t) : fifos t = fifos s := by
  have hcommand := decodeCmd_isFgCommand s.host.cmd
  cases hi : decodeCmd s.host.cmd <;> rw [hi] at he hcommand
  case send b =>
    refine execSend_keeps_fifos (s := s.accept) (fun _ ho => ?_) (fun hw => ?_) he
    · by_contra hf
      exact hsend b ⟨Bool.eq_false_of_not_eq_true hf, .inr ⟨hidle, hv, ho, hi⟩⟩
    · exact absurd (hidle.symm.trans hw) nofun
  case read =>
    refine execRead_keeps_fifos (s := s.accept) (fun _ ho => ?_) he
    by_contra hne
    exact hread ⟨hidle, hv, hi, ho, Bool.eq_false_of_not_eq_true hne⟩
  case openLine baud => exact execOpenLine_keeps_fifos (s := s.accept) hp he
  case nop | closeLine | txstat | rxstat | rsvd7 => exact exec_keeps (s := s.accept) fifos rfl he
  all_goals exact hcommand.elim

/-- The command in progress is the one whose phase it is (41_fg_commands.md R180). -/
theorem inProgress_cases {i : Instr} (h : s.inProgress = some i) :
    (s.fg.phase = .sendWait ∧ i = .send s.fg.cmdHold) ∨ (∃ baud, i = .openLine baud) ∨
      i = .closeLine := by
  unfold State.inProgress at h
  cases hp : s.fg.phase <;> simp only [hp, Option.some.injEq, reduceCtorEq] at h <;> subst h
  case sendWait => exact .inl ⟨rfl, rfl⟩
  case openInit | openWait => exact .inr (.inl ⟨_, rfl⟩)
  case closeDrain | closeWait => exact .inr (.inr rfl)

/-- A command in progress that is no SEND that stores. -/
theorem inProgress_keeps_fifos {i : Instr} (hi : s.inProgress = some i)
    (hsend : ∀ b, ¬SendCompletes s b) (hp : ¬Opening t) (he : exec i s = .next t) :
    fifos t = fifos s := by
  rcases inProgress_cases hi with ⟨hwait, rfl⟩ | ⟨baud, rfl⟩ | rfl
  · refine execSend_keeps_fifos (fun hidle => absurd (hwait.symm.trans hidle) nofun) (fun _ => ?_) he
    by_contra hf
    exact hsend _ ⟨Bool.eq_false_of_not_eq_true hf, .inl ⟨hwait, rfl⟩⟩
  · exact execOpenLine_keeps_fifos hp he
  · exact exec_keeps fifos rfl he

theorem fgStep_keeps_fifos (hsend : ∀ b, ¬SendCompletes s b) (hread : ¬ReadReturns s)
    (hp : ¬Opening t) (he : fgStep s = .next t) : fifos t = fifos s := by
  rcases fgStep_next he with ⟨i, hi, hexec⟩ | ⟨hidle, hv, hexec⟩ | ⟨-, -, rfl⟩
  · exact inProgress_keeps_fifos hi hsend hp hexec
  · exact accepted_keeps_fifos hidle hv hsend hread hp hexec
  · rfl

theorem execIsrRxc_keeps_fifos (hstore : ¬RxcStores s) (he : execIsrRxc s = .next t) :
    fifos t = fifos s := by
  rcases execIsrRxc_next he with ⟨-, rfl⟩ | ⟨-, -, rfl⟩ | ⟨hirq, hf, -⟩
  · rfl
  · rfl
  · exact absurd ⟨hirq, hf⟩ hstore

theorem Inv.execIsrDre_keeps_fifos (h : Inv s) (hp : ¬Opening s) (he : execIsrDre s = .next t) :
    fifos t = fifos s := by
  rcases execIsrDre_next he with ⟨-, rfl⟩ | ⟨-, -, rfl⟩ | ⟨-, hne, b, hb, rfl⟩
  · rfl
  · rfl
  · exact h.fifos_handOver hp hne (popTx_ok.2 ⟨hb, rfl⟩)

/-- CTL zeroes pointers only while OPEN waits for it (42_isr_handlers.md R203). -/
theorem Inv.ctlStep_keeps_fifos (h : Inv s) (hp : ¬Opening s)
    (he : exec (ctlInstr s.isr.phase) s = .next t) : fifos t = fifos s := by
  cases hip : s.isr.phase <;> rw [hip] at he
  case disabled =>
    rcases execCtlEnable_next he with ⟨-, hreqv, -⟩ | ⟨-, rfl⟩
    · exact absurd (.inr (lineRequested_of_enabling h.handshake hip hreqv).phase) hp
    · rfl
  case enabled | waitDre | settle => exact exec_keeps fifos rfl he

theorem sync_keeps_fifos {c : Crossing} {x : Ptr} (he : exec (syncInstr c x) s = .next t) :
    fifos t = fifos s := by
  cases c <;> exact exec_keeps fifos rfl he

theorem atLevel_keeps_fifos {l : Level} {o : Host.Outcome State Fault Refusal}
    (he : atLevel l s o = .next t) (ho : s.cfg.level = l → o = .next t → fifos t = fifos s) :
    fifos t = fifos s := by
  rcases atLevel_next he with ⟨hl, hstep⟩ | rfl
  · exact ho hl hstep
  · rfl

theorem Inv.stepEvent_keeps_fifos {e : Event} (h : Inv s) (hp : ¬Opening s) (hpt : ¬Opening t)
    (hreset : e ≠ .reset) (hsend : e = .fg → ∀ b, ¬SendCompletes s b)
    (hread : e = .fg → ¬ReadReturns s) (hstore : e = .handler .rxc → ¬RxcStores s)
    (he : stepEvent e s = .next t) : fifos t = fifos s := by
  cases e with
  | host w =>
    obtain ⟨_, hhost⟩ := hostPresent_cases w s
    obtain rfl := next_inj.1 he
    rw [hhost]
    rfl
  | hostSeq bs => exact exec_keeps (i := .sendseq bs) fifos rfl he
  | rxArrive d e => exact exec_keeps (i := .envRxArrive d e) fifos rfl he
  | txReady => exact exec_keeps (i := .envTxReady) fifos rfl he
  | fg => exact atLevel_keeps_fifos he fun _ => fgStep_keeps_fifos (hsend rfl) (hread rfl) hpt
  | handler hd =>
    refine atLevel_keeps_fifos he fun _ hstep => ?_
    rw [handlerStep_eq] at hstep
    cases hd with
    | rxc => exact execIsrRxc_keeps_fifos (hstore rfl) hstep
    | dre => exact h.execIsrDre_keeps_fifos hp hstep
  | ctl => exact atLevel_keeps_fifos he fun _ => h.ctlStep_keeps_fifos hp
  | sync c x => exact atLevel_keeps_fifos he fun _ => sync_keeps_fifos
  | clock k m => exact atLevel_keeps_fifos he fun hl => absurd (h.level.symm.trans hl) nofun
  | reset => exact absurd rfl hreset

/-! ### A step of the machine -/

/-- A step takes the next event on a state with the same registers, signals and ghosts. -/
theorem Inv.step_next (h : Inv s) (he : step s = .next t) :
    ∃ l n, Inv { s with sched := l, tick := n } ∧
      stepEvent s.nextEvent { s with sched := l, tick := n } = .next t := by
  obtain ⟨l, n, hadv⟩ := advance_cases s
  exact ⟨l, n, hadv ▸ h.advance, hadv ▸ he⟩

theorem Inv.fgStep_of_stepEvent (h : Inv s) (he : stepEvent .fg s = .next t) : fgStep s = .next t :=
  (atLevel_of_eq h.level).symm.trans he

theorem Inv.execIsrRxc_of_stepEvent (h : Inv s) (he : stepEvent (.handler .rxc) s = .next t) :
    execIsrRxc s = .next t :=
  (handlerStep_eq .rxc s).symm.trans ((atLevel_of_eq h.level).symm.trans he)

theorem Inv.step_of_completedSend (h : Inv s) (hsend : completedSend s = some b)
    (he : step s = .next t) : fifos t = ⟨txStream s ++ [some b], rxQueue s, rxTags s⟩ := by
  obtain ⟨hev, hsend⟩ := completedSend_eq_some.1 hsend
  obtain ⟨l, n, h', he⟩ := h.step_next he
  rw [hev] at he
  exact h'.fgStep_of_sendCompletes hsend (h'.fgStep_of_stepEvent he)

theorem Inv.step_of_readsByte (h : Inv s) (hread : ReadsByte s) (he : step s = .next t) :
    ∃ b g, rxQueue s = some b :: rxQueue t ∧ rxTags s = some g :: rxTags t ∧
      txStream t = txStream s ∧ t.fg.rspValid = true ∧
      t.fg.rsp = rspData (readFlags s.cfg.errTagMode g s.fg.rxErrView) b := by
  obtain ⟨hev, hread⟩ := hread
  obtain ⟨l, n, h', he⟩ := h.step_next he
  rw [hev] at he
  exact h'.fgStep_of_readReturns hread (h'.fgStep_of_stepEvent he)

theorem Inv.step_of_storesByte (h : Inv s) (hp : ¬Opening s) (hstore : StoresByte s)
    (he : step s = .next t) :
    fifos t = ⟨txStream s, rxQueue s ++ [some s.ser.rxData],
      rxTags s ++ [some (rxTagOf s.isr.rxDropPending s.ser.rxErr)]⟩ := by
  obtain ⟨hev, hstore⟩ := hstore
  obtain ⟨l, n, h', he⟩ := h.step_next he
  rw [hev] at he
  exact h'.execIsrRxc_of_rxcStores hp hstore (h'.execIsrRxc_of_stepEvent he)

theorem Inv.step_keeps_fifos (h : Inv s) (hp : ¬Opening s) (hpt : ¬Opening t)
    (hreset : s.nextEvent ≠ .reset) (hsend : completedSend s = none) (hread : ¬ReadsByte s)
    (hstore : ¬StoresByte s) (he : step s = .next t) : fifos t = fifos s := by
  obtain ⟨l, n, h', he⟩ := h.step_next he
  have hnosend : s.nextEvent = .fg → ∀ b, ¬SendCompletes s b := fun hev b hb => by
    simp [completedSend_eq_some.2 ⟨hev, hb⟩] at hsend
  exact h'.stepEvent_keeps_fifos hp hpt hreset hnosend (fun hev hr => hread ⟨hev, hr⟩)
    (fun hev hs => hstore ⟨hev, hs⟩) he

/-- Settles O49: a SEND that completes pushes its byte behind the others, a hand-over moves one from the
front of the buffer to the end of those handed over, and no other step touches the sequence. -/
theorem transmitOrder : Obligations.TransmitOrder := by
  intro s t h he hp hpt hreset
  cases hsend : completedSend s with
  | some b => exact congrArg Fifos.tx (h.step_of_completedSend hsend he)
  | none =>
    have hsame : txStream t = txStream s := by
      by_cases hread : ReadsByte s
      · obtain ⟨-, -, -, -, htx, -⟩ := h.step_of_readsByte hread he
        exact htx
      by_cases hstore : StoresByte s
      · exact congrArg Fifos.tx (h.step_of_storesByte hp hstore he)
      exact congrArg Fifos.tx (h.step_keeps_fifos hp hpt hreset hsend hread hstore he)
    simpa using hsame

/-! ### What a READ's response says -/

theorem rspData_byte (g : Tag) (b : Byte) : (rspData g b).extractLsb' 0 8 = b := by
  ext i hi
  have hword : i < 16 := by omega
  have hbyte : i < 9 := by omega
  simp [rspData, rspFlags, hword, hbyte, BitVec.getLsbD_eq_getElem hi]

theorem rspData_hasData (g : Tag) (b : Byte) : (rspData g b).getLsbD 8 = false := by
  simp [rspData, rspFlags]

theorem rspData_flags (g : Tag) (b : Byte) : (rspData g b).extractLsb' 9 4 = g := by
  ext i hi
  have hword : 9 + i < 16 := by omega
  have habove : b.getLsbD (9 + i) = false := BitVec.getLsbD_of_ge b (9 + i) (by omega)
  simp [rspData, rspFlags, hword, habove, BitVec.getLsbD_eq_getElem hi]

/-- Settles O50: a READ that returns a byte pops the oldest entry, an `ISR.RXC` that stores pushes one behind
the others, and no other step touches the sequences. -/
theorem receiveOrder : Obligations.ReceiveOrder := by
  intro s t h he hp hpt hreset
  split
  · next hread =>
    obtain ⟨b, g, hrx, htags, -, hvalid, hrsp⟩ := h.step_of_readsByte hread he
    refine ⟨b, g, rxQueue t, rxTags t, hrx, htags, rfl, rfl, hvalid, ?_, ?_, fun hmode => ?_⟩
    · rw [hrsp, rspData_byte]
    · rw [hrsp, rspData_hasData]
    · rw [hrsp, rspData_flags, hmode]; rfl
  · next hread =>
    split
    · next hstore =>
      have hfifos := h.step_of_storesByte hp hstore he
      exact ⟨congrArg Fifos.rx hfifos, congrArg Fifos.tags hfifos⟩
    · next hstore =>
      cases hsend : completedSend s with
      | some b =>
        have hfifos := h.step_of_completedSend hsend he
        exact ⟨congrArg Fifos.rx hfifos, congrArg Fifos.tags hfifos⟩
      | none =>
        have hfifos := h.step_keeps_fifos hp hpt hreset hsend hread hstore he
        exact ⟨congrArg Fifos.rx hfifos, congrArg Fifos.tags hfifos⟩

end Sys2Proof.Safety
end

section
/-! PROOFS: a pointer moves by one or is set to 0 (20_memory.md R71, 40_ring_buffer.md R146). -/

namespace Sys2Proof.Safety

open Sys2Proof.Machine

variable {i : Instr} {s t : State}

/-- A pointer of `n + 1` bits goes from `p` to `q`: it stays, advances by one, or is initialised. -/
abbrev PtrMoves (n : Nat) (p q : Ptr) (initialised : Prop) : Prop :=
  q = p ∨ q = ptrInc n p ∨ (q = 0 ∧ initialised)

/-- A part that moves where an operation writes it moves as it should, for it stays everywhere else. -/
theorem ptrMoves_of_writes {n : Nat} {f : State → Ptr} {initialised : Prop} (h : exec i s = .next t)
    (hw : Writes i f → PtrMoves n (f s) (f t) initialised) : PtrMoves n (f s) (f t) initialised := by
  by_cases hstay : f t = f s
  · exact .inl hstay
  · exact hw ⟨s, t, h, hstay⟩

theorem exec_moves_txWptr (h : exec i s = .next t) :
    PtrMoves s.cfg.nTx s.fg.txWptr t.fg.txWptr
      ((∃ b, i = .openLine b) ∨ ∃ p, i = .rbInit .tx p) := by
  refine ptrMoves_of_writes (f := (·.fg.txWptr)) h fun hw => ?_
  rcases txWptr_writer hw with ⟨b, rfl⟩ | ⟨baud, rfl⟩ | ⟨d, g, rfl⟩ | rfl
  · rcases execSend_next h with ⟨-, -, rfl⟩ | ⟨-, -, -, rfl⟩ | ⟨-, -, -, rfl⟩ | ⟨-, -, rfl⟩ |
      ⟨-, -, rfl⟩ | ⟨-, -, rfl⟩
    case inr.inr.inl | inr.inr.inr.inr.inl => exact .inr (.inl rfl)
    all_goals exact .inl rfl
  · rcases execOpenLine_next h with ⟨-, -, rfl⟩ | ⟨-, -, rfl⟩ | ⟨-, rfl⟩ | ⟨-, -, rfl⟩ |
      ⟨-, -, rfl⟩ | ⟨-, -, -, rfl⟩
    case inr.inl => exact .inr (.inr ⟨rfl, .inl ⟨baud, rfl⟩⟩)
    all_goals exact .inl rfl
  · rcases execRbPush_next (g := g) h with ⟨-, rfl⟩ | ⟨-, ⟨-, rfl⟩ | ⟨hbuf, -⟩⟩
    · exact .inl rfl
    · exact .inr (.inl rfl)
    · cases hbuf
  · obtain rfl := next_inj.1 h
    exact .inr (.inr ⟨rfl, .inr ⟨_, rfl⟩⟩)

theorem exec_moves_txRptr (h : exec i s = .next t) :
    PtrMoves s.cfg.nTx s.isr.txRptr t.isr.txRptr (i = .ctlEnable ∨ ∃ p, i = .rbInit .tx p) := by
  refine ptrMoves_of_writes (f := (·.isr.txRptr)) h fun hw => ?_
  rcases txRptr_writer hw with rfl | rfl | rfl | rfl
  · rcases execIsrDre_next h with ⟨-, rfl⟩ | ⟨-, -, rfl⟩ | ⟨-, -, b, -, rfl⟩
    · exact .inl rfl
    · exact .inl rfl
    · exact .inr (.inl rfl)
  · rcases execCtlEnable_next h with ⟨-, -, rfl⟩ | ⟨-, rfl⟩
    · exact .inr (.inr ⟨rfl, .inl rfl⟩)
    · exact .inl rfl
  · rcases execRbPop_next h with ⟨-, rfl⟩ | ⟨-, ⟨-, d, a, hpop, rfl⟩ | ⟨hbuf, -⟩⟩
    · exact .inl rfl
    · obtain ⟨-, rfl⟩ := popTx_ok.1 hpop
      exact .inr (.inl rfl)
    · cases hbuf
  · obtain rfl := next_inj.1 h
    exact .inr (.inr ⟨rfl, .inr ⟨_, rfl⟩⟩)

theorem exec_moves_rxWptr (h : exec i s = .next t) :
    PtrMoves s.cfg.nRx s.isr.rxWptr t.isr.rxWptr (i = .ctlEnable ∨ ∃ p, i = .rbInit .rx p) := by
  refine ptrMoves_of_writes (f := (·.isr.rxWptr)) h fun hw => ?_
  rcases rxWptr_writer hw with rfl | rfl | ⟨d, g, rfl⟩ | rfl
  · rcases execIsrRxc_next h with ⟨-, rfl⟩ | ⟨-, -, rfl⟩ | ⟨-, -, rfl⟩
    · exact .inl rfl
    · exact .inl rfl
    · exact .inr (.inl rfl)
  · rcases execCtlEnable_next h with ⟨-, -, rfl⟩ | ⟨-, rfl⟩
    · exact .inr (.inr ⟨rfl, .inl rfl⟩)
    · exact .inl rfl
  · rcases execRbPush_next h with ⟨-, rfl⟩ | ⟨-, ⟨hbuf, -⟩ | ⟨-, rfl⟩⟩
    · exact .inl rfl
    · cases hbuf
    · exact .inr (.inl rfl)
  · obtain rfl := next_inj.1 h
    exact .inr (.inr ⟨rfl, .inr ⟨_, rfl⟩⟩)

theorem exec_moves_rxRptr (h : exec i s = .next t) :
    PtrMoves s.cfg.nRx s.fg.rxRptr t.fg.rxRptr
      ((∃ b, i = .openLine b) ∨ ∃ p, i = .rbInit .rx p) := by
  refine ptrMoves_of_writes (f := (·.fg.rxRptr)) h fun hw => ?_
  rcases rxRptr_writer hw with rfl | ⟨baud, rfl⟩ | rfl | rfl
  · rcases execRead_next h with ⟨-, rfl⟩ | ⟨-, -, rfl⟩ | ⟨-, -, -, rfl⟩ | ⟨-, -, -, b, g, -, -, rfl⟩
    case inr.inr.inr => exact .inr (.inl rfl)
    all_goals exact .inl rfl
  · rcases execOpenLine_next h with ⟨-, -, rfl⟩ | ⟨-, -, rfl⟩ | ⟨-, rfl⟩ | ⟨-, -, rfl⟩ |
      ⟨-, -, rfl⟩ | ⟨-, -, -, rfl⟩
    case inr.inl => exact .inr (.inr ⟨rfl, .inl ⟨baud, rfl⟩⟩)
    all_goals exact .inl rfl
  · rcases execRbPop_next h with ⟨-, rfl⟩ | ⟨-, ⟨hbuf, -⟩ | ⟨-, d, g, a, hpop, rfl⟩⟩
    · exact .inl rfl
    · cases hbuf
    · obtain ⟨-, -, rfl⟩ := popRx_ok.1 hpop
      exact .inr (.inl rfl)
  · obtain rfl := next_inj.1 h
    exact .inr (.inr ⟨rfl, .inr ⟨_, rfl⟩⟩)

/-- Settles O39: a pointer's writers are few, and each pushes, pops or initialises. -/
theorem pointersMoveByOne : Obligations.PointersMoveByOne := fun _ _ _ h =>
  ⟨exec_moves_txWptr h, exec_moves_txRptr h, exec_moves_rxWptr h, exec_moves_rxRptr h⟩

end Sys2Proof.Safety
end

section
/-! PROOFS: a producer never addresses an entry its consumer may read (20_memory.md R83). -/

namespace Sys2Proof.Safety

open Sys2Proof.Machine

theorem ptrAdd_lt (n : Nat) (p : Ptr) (k : Nat) : (ptrAdd n p k).toNat < 2 ^ (n + 1) :=
  (Nat.mod_le _ _).trans_lt (Nat.mod_lt _ (Nat.two_pow_pos _))

/-- The distance left after `k` of the steps from the read pointer to the write pointer. -/
theorem occ_ptrAdd {n k : Nat} {w r : Ptr} (hn : n ≤ 12) (hw : w.toNat < 2 ^ (n + 1))
    (hr : r.toNat < 2 ^ (n + 1)) (hk : k ≤ occ n w r) : occ n w (ptrAdd n r k) + k = occ n w r := by
  have hlt := occ_lt n w r
  have hsum := ptrAdd_toNat hn hr (hk.trans_lt hlt)
  rw [occ_of_lt hn hw hr] at hk ⊢
  rw [occ_of_lt hn hw (ptrAdd_lt n r k), hsum]
  split at hk <;> (repeat' split) <;> omega

/-- An entry the consumer's view covers lies less than a capacity before a write pointer that may still
move, so it has another index. -/
theorem RingOrdered.idx_ne {n k : Nat} {w r wv rv : Ptr} (hn : n ≤ 12) (hw : w.toNat < 2 ^ (n + 1))
    (hr : r.toNat < 2 ^ (n + 1)) (hwv : wv.toNat < 2 ^ (n + 1)) (h : RingOrdered n w r wv rv)
    (hf : occ n w rv ≠ 2 ^ n) (hk : k < occ n wv r) : idx n (ptrAdd n r k) ≠ idx n w := by
  have hroom := h.count_lt hn hw hr hwv hf
  have hcount := ring_count hn hw hr hwv h
  have hleft := occ_ptrAdd (k := k) hn hw hr (by omega)
  exact (idx_ne_of_occ hn hw (ptrAdd_lt n r k) (by omega) (by omega)).symm

/-- Settles O47: outside OPEN both rings are in order. -/
theorem noReadWriteCollision : Obligations.NoReadWriteCollision := by
  intro s h hp b hf k hk
  have hne := of_decide_eq_false hf
  cases b with
  | tx =>
    exact (h.ordered hp).tx.idx_ne h.nTx_le h.shape.txWptr h.shape.txRptr h.txWview hne hk
  | rx =>
    exact (h.ordered hp).rx.idx_ne h.nRx_le h.shape.rxWptr h.shape.rxRptr h.rxWview hne hk

end Sys2Proof.Safety
end

section
/-! PROOFS: decode and encode agree, and what a command word decodes to (30_encoding.md R100 to R102,
R108 to R110, R113, R114). -/

namespace Sys2Proof

open Sys2Proof.Safety

variable {c d : CmdWord}

/-! ### The fields of a command word -/

/-- The mask of an opcode-table row keeps the operation field alone (30_encoding.md R114). -/
theorem and_opMask (c : CmdWord) : c &&& 0x70000#19 = (opField c).setWidth 19 <<< 16 := by
  have hmask : ∀ j : Fin 19, (0x70000#19).getLsbD j = decide (16 ≤ j.val) := by decide
  apply BitVec.eq_of_getLsbD_eq
  intro i hi
  rw [BitVec.getLsbD_and, hmask ⟨i, hi⟩, BitVec.getLsbD_shiftLeft]
  by_cases h : 16 ≤ i
  · simp [opField, h, hi, show i - 16 < 3 by omega, show i - 16 < 19 by omega]
  · simp [h, Nat.lt_of_not_le h]

theorem opField_or (c d : CmdWord) : opField (c ||| d) = opField c ||| opField d :=
  BitVec.extractLsb'_or

theorem argField_or (c d : CmdWord) : argField (c ||| d) = argField c ||| argField d :=
  BitVec.extractLsb'_or

/-- An argument has no bit in the operation field. -/
theorem opField_setWidth {w : Nat} (hw : w ≤ 16) (x : BitVec w) : opField (x.setWidth 19) = 0#3 := by
  ext i hi
  simp [opField, BitVec.getLsbD_of_ge x (16 + i) (by omega)]

theorem argField_setWidth {w : Nat} (x : BitVec w) : argField (x.setWidth 19) = x.setWidth 16 := by
  ext i hi
  simp [argField]
  omega

theorem opField_openLine (baud : BitVec 16) : opField (0x10000#19 ||| baud.setWidth 19) = 1#3 := by
  rw [opField_or, opField_setWidth le_rfl]; rfl

theorem argField_openLine (baud : BitVec 16) : argField (0x10000#19 ||| baud.setWidth 19) = baud := by
  rw [argField_or, argField_setWidth, BitVec.setWidth_eq]
  exact BitVec.zero_or

theorem opField_sendWord (b : Byte) : opField (sendWord b) = 3#3 := by
  rw [sendWord, opField_or, opField_setWidth (by decide)]; rfl

theorem byte_sendWord (b : Byte) : (sendWord b).extractLsb' 0 8 = b := by
  rw [sendWord, BitVec.extractLsb'_or, BitVec.extractLsb'_setWidth_of_le (by decide),
    BitVec.extractLsb'_eq_self]
  exact BitVec.zero_or

/-! ### The command port's decoder -/

theorem decodeCmd_openLine (h : opField c = 1#3) : decodeCmd c = .openLine (argField c) := by
  rw [decodeCmd, h]; rfl

theorem decodeCmd_send (h : opField c = 3#3) : decodeCmd c = .send (c.extractLsb' 0 8) := by
  have harg : (argField c).extractLsb' 0 8 = c.extractLsb' 0 8 :=
    BitVec.extractLsb'_extractLsb'_of_le (by decide)
  rw [decodeCmd, h, ← harg]; rfl

/-- The row of the opcode table a word decodes to is the one its operation field names. -/
theorem op_decodeCmd (c : CmdWord) :
    Laws.TableRow.op (decodeCmd c) = some ((opField c).setWidth 19) := by
  have hop : ∀ o : BitVec 3, o = 0 ∨ o = 1 ∨ o = 2 ∨ o = 3 ∨ o = 4 ∨ o = 5 ∨ o = 6 ∨ o = 7 := by
    decide
  unfold decodeCmd
  rcases hop (opField c) with h | h | h | h | h | h | h | h <;> rw [h] <;> rfl

theorem opField_eq_of_decodeCmd_eq (h : decodeCmd c = decodeCmd d) : opField c = opField d := by
  have hop := congrArg Laws.TableRow.op h
  rw [op_decodeCmd, op_decodeCmd, Option.some.injEq] at hop
  simpa using congrArg (BitVec.setWidth 3) hop

theorem decodeCmd_eq_iff : decodeCmd c = decodeCmd d ↔ opField c = opField d ∧
    (opField c = 1#3 → argField c = argField d) ∧
    (opField c = 3#3 → c.extractLsb' 0 8 = d.extractLsb' 0 8) := by
  constructor
  · intro h
    have hop := opField_eq_of_decodeCmd_eq h
    refine ⟨hop, fun h1 => ?_, fun h3 => ?_⟩
    · rw [decodeCmd_openLine h1, decodeCmd_openLine (hop ▸ h1)] at h
      exact Instr.openLine.inj h
    · rw [decodeCmd_send h3, decodeCmd_send (hop ▸ h3)] at h
      exact Instr.send.inj h
  · rintro ⟨hop, harg, hbyte⟩
    by_cases h1 : opField c = 1#3
    · rw [decodeCmd_openLine h1, decodeCmd_openLine (hop ▸ h1), harg h1]
    by_cases h3 : opField c = 3#3
    · rw [decodeCmd_send h3, decodeCmd_send (hop ▸ h3), hbyte h3]
    · have hn1 : (opField d).toNat ≠ 1 := fun h => h1 (hop.trans (BitVec.eq_of_toNat_eq h))
      have hn3 : (opField d).toNat ≠ 3 := fun h => h3 (hop.trans (BitVec.eq_of_toNat_eq h))
      rw [decodeCmd, decodeCmd, hop]
      split
      case h_2 | h_4 => contradiction
      all_goals rfl

/-! ### Decode after encode -/

theorem decodeCmd_of_encodeCmd {i : Instr} (h : encodeCmd i = some c) : decodeCmd c = i := by
  cases i with
  | openLine baud =>
    cases h
    rw [decodeCmd_openLine (opField_openLine baud), argField_openLine]
  | send b =>
    cases h
    rw [decodeCmd_send (opField_sendWord b), byte_sendWord]
  | nop | closeLine | read | txstat | rxstat | rsvd7 => cases h; rfl
  | _ => cases h

theorem encodeCmd_isSome_iff (i : Instr) : (encodeCmd i).isSome = true ↔ isFgCommand i := by
  cases i <;> simp [encodeCmd]

theorem encode_of_not_handler {i : Instr} (hrxc : i ≠ .isrRxc) (hdre : i ≠ .isrDre) :
    encode i = (encodeCmd i).map fun c => (.cmd19, c.toNat) := by
  unfold encode
  split
  case h_1 | h_2 => contradiction
  case h_3 => rfl

theorem decode_cmd19 (c : CmdWord) : decode .cmd19 c.toNat = .ok (decodeCmd c) := by
  rw [decode, if_pos c.isLt, BitVec.ofNat_toNat, BitVec.setWidth_eq]

theorem decode_of_encode {i : Instr} {f : Format} {w : Nat} (h : encode i = some (f, w)) :
    decode f w = .ok i := by
  by_cases hrxc : i = .isrRxc
  · subst hrxc; cases h; rfl
  by_cases hdre : i = .isrDre
  · subst hdre; cases h; rfl
  · rw [encode_of_not_handler hrxc hdre] at h
    obtain ⟨c, hc, hw⟩ := Option.map_eq_some_iff.1 h
    cases hw
    rw [decode_cmd19, decodeCmd_of_encodeCmd hc]

theorem encode_isSome_iff (i : Instr) :
    (encode i).isSome = true ↔ isFgCommand i ∨ i = .isrRxc ∨ i = .isrDre := by
  by_cases hrxc : i = .isrRxc
  · simp [hrxc, encode]
  by_cases hdre : i = .isrDre
  · simp [hdre, encode]
  · rw [encode_of_not_handler hrxc hdre, Option.isSome_map, encodeCmd_isSome_iff]
    simp [hrxc, hdre]

/-- Settles O2: a command's word is decoded by its operation field and carries the whole operand; a
handler's word is a vector that invokes it. -/
theorem decodeOfEncode : Obligations.DecodeOfEncode :=
  ⟨fun _ _ _ => decode_of_encode, encode_isSome_iff⟩

/-- Settles O3: a command word decodes to a command, whose own word decodes alike, and words that decode
alike have the same operation field. -/
theorem decodedFromOperationField : Obligations.DecodedFromOperationField := by
  refine ⟨fun c => ?_, fun c d => decodeCmd_eq_iff⟩
  obtain ⟨e, he⟩ := Option.isSome_iff_exists.1
    ((encodeCmd_isSome_iff _).2 (Machine.decodeCmd_isFgCommand c))
  have hdecode := decodeCmd_of_encodeCmd he
  refine ⟨e, he, ?_, hdecode⟩
  rw [and_opMask, and_opMask, opField_eq_of_decodeCmd_eq hdecode]

/-- Settles O1: each word is a literal, so the decoder is run on it. -/
theorem knownWordsDecode : Obligations.KnownWordsDecode := by
  unfold Obligations.KnownWordsDecode
  decide

end Sys2Proof
end

section
/-! PROOFS: which handler the trigger vector invokes, and that a placed word is what the next step runs
(30_encoding.md R109, R113, R114). -/

namespace Sys2Proof.Machine

/-! ### The trigger vector -/

theorem ev_bits (s : State) :
    s.ev.getLsbD 3 = s.ser.rxc ∧ s.ev.getLsbD 2 = s.isr.rxcie ∧
      s.ev.getLsbD 1 = s.ser.dre ∧ s.ev.getLsbD 0 = s.isr.dreie := by
  simp only [State.ev, BitVec.getLsbD_append]
  simp

/-- The bits of one handler decode to that handler or to nothing. -/
theorem decodeEv_rxcMask : ∀ ev : EvWord, decodeEv (ev &&& handlerMask .rxc) =
    if ev &&& 0b1100#4 = 0b1100#4 then some .isrRxc else none := by decide

theorem decodeEv_dreMask : ∀ ev : EvWord, decodeEv (ev &&& handlerMask .dre) =
    if ev &&& 0b0011#4 = 0b0011#4 then some .isrDre else none := by decide

theorem handlerStep_of_decodeEv {h : Handler} {i : Instr} {p : Prop} [Decidable p] {s : State}
    (hev : decodeEv (s.ev &&& handlerMask h) = if p then some i else none) :
    handlerStep h s = if p then exec i s else .next s := by
  rw [handlerStep, hev]
  by_cases hp : p
  · rw [if_pos hp, if_pos hp]
  · rw [if_neg hp, if_neg hp]

/-- Settles O4: a handler's step decodes that handler's bits of the vector. -/
theorem triggerVectorInvokesHandlers : Obligations.TriggerVectorInvokesHandlers :=
  fun s => ⟨ev_bits s, handlerStep_of_decodeEv (decodeEv_rxcMask s.ev),
    handlerStep_of_decodeEv (decodeEv_dreMask s.ev)⟩

/-! ### A placed word -/

/-- A handler as an instruction (44_environment.md R250). -/
def handlerInstr : Handler → Instr
  | .rxc => .isrRxc
  | .dre => .isrDre

theorem handlerStep_eq_exec (h : Handler) (s : State) : handlerStep h s = exec (handlerInstr h) s := by
  rw [handlerStep_eq]
  cases h <;> rfl

/-- A vector decodes to the handler that comes first (42_isr_handlers.md R207). -/
theorem handlerInstr_of_decodeEv {ev : EvWord} {i : Instr} (h : decodeEv ev = some i) :
    handlerInstr (handlerOf ev) = i := by
  unfold decodeEv at h
  unfold handlerOf
  split at h
  · next hrxc => rw [if_pos hrxc]; exact Option.some.inj h
  · next hrxc =>
    rw [if_neg hrxc]
    split at h
    · exact Option.some.inj h
    · cases h

theorem step_presentCmd (s : State) (c : CmdWord) :
    step (s.presentCmd c) = exec (decodeCmd c) { s with
      cfg := { s.cfg with level := .agent }
      fg := { s.fg with phase := .idle }
      host := { s.host with cmdValid := false, cmd := c } } := rfl

theorem step_presentEv (s : State) (ev : EvWord) :
    step (s.presentEv ev) = exec (handlerInstr (handlerOf ev)) { s with
      cfg := { s.cfg with level := .agent }
      ser := { s.ser with rxc := ev.getLsbD 3, dre := ev.getLsbD 1 }
      isr := { s.isr with rxcie := ev.getLsbD 2, dreie := ev.getLsbD 0 } } :=
  handlerStep_eq_exec _ _

theorem decodeTableWord_eq_some_iff {nbits w : Nat} {i : Instr} :
    decodeTableWord nbits w = some i ↔ decode (tableFormat nbits) w = .ok i := by
  unfold decodeTableWord
  split
  · next h => rw [h]; simp
  · next h => rw [h]; simp

theorem decode_cmd19_ok {w : Nat} {i : Instr} (h : decode .cmd19 w = .ok i) :
    decodeCmd (BitVec.ofNat 19 w) = i := by
  unfold decode at h
  simp only at h
  split at h
  · exact Except.ok.inj h
  · cases h

theorem decode_ev4_ok {w : Nat} {i : Instr} (h : decode .ev4 w = .ok i) :
    decodeEv (BitVec.ofNat 4 w) = some i := by
  unfold decode at h
  simp only at h
  split at h
  · split at h
    · next hev => rw [hev, Except.ok.inj h]
    · cases h
  · cases h

/-- Settles O7: a table word of at most eight bits is a trigger vector and its handler has the next turn;
a longer one is a command word and FG has it. -/
theorem placedWordRuns : Obligations.PlacedWordRuns := by
  intro s nbits w i h
  rw [decodeTableWord_eq_some_iff] at h
  refine ⟨fun hn => ?_, fun hn => ?_⟩
  · have hf : tableFormat nbits = .ev4 := if_pos hn
    rw [hf] at h
    rw [State.withFetchWord, hf]
    refine (step_presentEv s _).trans ?_
    rw [handlerInstr_of_decodeEv (decode_ev4_ok h)]
    simp only [BitVec.getLsbD_ofNat]
    rfl
  · have hf : tableFormat nbits = .cmd19 := if_neg (Nat.not_le.2 hn)
    rw [hf] at h
    rw [State.withFetchWord, hf]
    exact (step_presentCmd s _).trans (by rw [decode_cmd19_ok h])

end Sys2Proof.Machine
end

section
/-! PROOFS: the control word (30_encoding.md R106). -/

namespace Sys2Proof.Safety

open Sys2Proof.Machine

/-- Settles O45: the three enables are equal, and the transmit handler is armed only where they are on. -/
theorem onlyThreeControlWords : Obligations.OnlyThreeControlWords := by
  intro s h
  have harmed := h.dreie
  rw [State.ctrlWord, h.rxcie, h.txen]
  rw [h.txen] at harmed
  cases hrx : s.isr.rxen with
  | false =>
    have hoff : s.isr.dreie = false := by simpa [hrx] using harmed
    exact .inl (by rw [hoff]; rfl)
  | true =>
    cases s.isr.dreie with
    | false => exact .inr (.inl rfl)
    | true => exact .inr (.inr rfl)

end Sys2Proof.Safety
end

section
/-! PROOFS: the gray code (30_encoding.md R107, 00_scope.md R10). -/

namespace Sys2Proof.Machine

/-! ### Gray code and its inverse -/

theorem gray_lt {n : Nat} {b : Ptr} (hb : b.toNat < 2 ^ (n + 1)) : (gray b).toNat < 2 ^ (n + 1) := by
  rw [gray, BitVec.toNat_xor, BitVec.toNat_ushiftRight]
  exact Nat.xor_lt_two_pow hb ((Nat.shiftRight_le _ _).trans_lt hb)

theorem gray_getLsbD (b : Ptr) (i : Nat) :
    (gray b).getLsbD i = xor (b.getLsbD i) (b.getLsbD (i + 1)) := by
  rw [gray, BitVec.getLsbD_xor, BitVec.getLsbD_ushiftRight, Nat.add_comm 1 i]

/-- Each doubling shift of `ungray` doubles the distance at which a bit is still added; at 16 none is
left. -/
theorem ungray_gray (b : Ptr) : ungray (gray b) = b := by
  simp only [ungray, gray, xor_shift_twice, Nat.reduceAdd]
  rw [shift_out b 16 (by decide)]
  exact BitVec.xor_zero

/-- There are as many gray codes as pointers, so an inverse on one side is one on the other. -/
theorem gray_ungray (g : Ptr) : gray (ungray g) = g := by
  have hinj : Function.Injective gray := Function.LeftInverse.injective ungray_gray
  exact Function.LeftInverse.rightInverse_of_surjective ungray_gray
    (Finite.surjective_of_injective hinj) g

/-- `b[i] = b[i+1] ^ g[i]` (00_scope.md R10). -/
theorem ungray_getLsbD (g : Ptr) (i : Nat) :
    (ungray g).getLsbD i = xor ((ungray g).getLsbD (i + 1)) (g.getLsbD i) := by
  have h := gray_getLsbD (ungray g) i
  rw [gray_ungray] at h
  rw [h, Bool.xor_comm, Bool.xor_assoc, Bool.xor_self, Bool.xor_false]

/-! ### An increment changes one bit of the gray code -/

/-- An increment modulo a power of two inverts the lowest bits up to and with the lowest 0, or all of
them where it wraps. -/
theorem xor_succ_mod (n : Nat) : ∀ b, b < 2 ^ (n + 1) →
    ∃ k, k ≤ n ∧ b ^^^ ((b + 1) % 2 ^ (n + 1)) = 2 ^ (k + 1) - 1 := by
  induction n with
  | zero => intro b hb; exact ⟨0, le_rfl, by interval_cases b <;> rfl⟩
  | succ n ih =>
    intro b hb
    obtain ⟨a, rfl | rfl⟩ := Nat.even_or_odd' b
    · have hxor : (2 * a) ^^^ (2 * a + 1) = 1 := by
        have h := Nat.xor_bit false a true a
        rwa [Nat.xor_self] at h
      exact ⟨0, Nat.zero_le _, by rw [Nat.mod_eq_of_lt (by omega), hxor]; rfl⟩
    · obtain ⟨k, hk, h⟩ := ih a (by omega)
      have hmod : (2 * a + 1 + 1) % 2 ^ (n + 1 + 1) = 2 * ((a + 1) % 2 ^ (n + 1)) := by
        rw [← Nat.mul_mod_mul_left, Nat.pow_succ' (n := n + 1), Nat.mul_add]
      have hxor : (2 * a + 1) ^^^ (2 * ((a + 1) % 2 ^ (n + 1))) = 2 * (2 ^ (k + 1) - 1) + 1 := by
        rw [← h]
        exact Nat.xor_bit true a false _
      have hpos := Nat.two_pow_pos (k + 1)
      exact ⟨k + 1, Nat.succ_le_succ hk, by rw [hmod, hxor]; omega⟩

theorem gray_ones {k : Nat} (hk : k ≤ 12) : gray (BitVec.ofNat 13 (2 ^ (k + 1) - 1)) = 1#13 <<< k := by
  interval_cases k <;> rfl

theorem gray_ptrInc {n : Nat} {b : Ptr} (hn : n ≤ 12) (hb : b.toNat < 2 ^ (n + 1)) :
    ∃ k, k ≤ n ∧ gray (ptrInc n b) = gray b ^^^ (1#13 <<< k) := by
  obtain ⟨k, hk, h⟩ := xor_succ_mod n b.toNat hb
  have hxor : b ^^^ ptrInc n b = BitVec.ofNat 13 (2 ^ (k + 1) - 1) := by
    rw [← h, ptrInc, BitVec.ofNat_xor, BitVec.ofNat_toNat, BitVec.setWidth_eq]
  refine ⟨k, hk, ?_⟩
  rw [← gray_ones (hk.trans hn), ← hxor, gray_xor, ← BitVec.xor_assoc, BitVec.xor_self,
    BitVec.zero_xor]

/-- On one bit there is no bit above to add. -/
theorem gray_of_lt_two {b : Ptr} (hb : b.toNat < 2) : gray b = b := by
  have hz : b >>> 1 = 0 := BitVec.eq_of_toNat_eq (by
    rw [BitVec.toNat_ushiftRight, Nat.shiftRight_eq_div_pow]; exact Nat.div_eq_of_lt hb)
  rw [gray, hz]
  exact BitVec.xor_zero

/-- Settles O52: an increment inverts a run of low bits, whose gray code is one bit, and `ungray` adds up
the bits above. -/
theorem grayCode : Obligations.GrayCode :=
  ⟨fun _ _ hn hb => ⟨rfl, gray_lt hb, gray_ptrInc hn hb⟩, by decide, fun _ => gray_of_lt_two,
    fun b => ⟨ungray_gray b, gray_ungray b⟩, ungray_getLsbD⟩

end Sys2Proof.Machine
end

section
/-! PROOFS: the arithmetic of pointers (40_ring_buffer.md R146, 00_scope.md R10, 20_memory.md R71), and full
and empty tested on gray codes (40_ring_buffer.md R150). -/

namespace Sys2Proof.Machine

variable {n k : Nat} {w r : Ptr}

/-! ### Increment, distance and index -/

theorem ptrAdd_toNat_mod (hn : n ≤ 12) (p : Ptr) (k : Nat) :
    (ptrAdd n p k).toNat = (p.toNat + k) % 2 ^ (n + 1) := by
  have hlt : (p.toNat + k) % 2 ^ (n + 1) < 2 ^ (n + 1) := Nat.mod_lt _ (Nat.two_pow_pos _)
  rw [ptrAdd, BitVec.toNat_ofNat, Nat.mod_eq_of_lt (hlt.trans_le (modulus_le hn))]

theorem occ_ptrAdd_self (hn : n ≤ 12) (hr : r.toNat < 2 ^ (n + 1)) (hk : k < 2 ^ (n + 1)) :
    occ n (ptrAdd n r k) r = k := by
  have hsum := ptrAdd_toNat hn hr hk
  rw [occ_of_lt hn (Safety.ptrAdd_lt n r k) hr, hsum]
  (repeat' split) <;> omega

/-- The distance from `r` to `w` is the one number of steps that leads from `r` to `w`. -/
theorem ptrAdd_eq_iff (hn : n ≤ 12) (hw : w.toNat < 2 ^ (n + 1)) (hr : r.toNat < 2 ^ (n + 1))
    (hk : k < 2 ^ (n + 1)) : ptrAdd n r k = w ↔ k = occ n w r := by
  constructor
  · rintro rfl; exact (occ_ptrAdd_self hn hr hk).symm
  · rintro rfl; exact ptrAdd_occ hn hw hr

theorem idx_ptrAdd_capacity (hn : n ≤ 12) (p : Ptr) : idx n (ptrAdd n p (2 ^ n)) = idx n p := by
  rw [idx, ptrAdd_toNat_mod hn, Nat.mod_mod_of_dvd _ (Nat.pow_dvd_pow 2 n.le_succ), Nat.add_mod_right]
  rfl

/-- Settles O54: `w` is `k` steps from `r` for no `k` but the distance. -/
theorem pointerArithmetic : Obligations.PointerArithmetic := by
  intro n w r hn hw hr
  refine ⟨ptrAdd_toNat_mod hn w 1, occ_lt n w r, fun k hk => ?_, idx_ptrAdd_capacity hn r⟩
  rw [← ptrAdd_eq_iff hn hw hr hk, ← ptrAdd_toNat_mod hn, BitVec.toNat_inj]

/-! ### Full and empty on gray codes -/

theorem gray_inj {a b : Ptr} : gray a = gray b ↔ a = b :=
  (Function.LeftInverse.injective ungray_gray).eq_iff

/-- Adding `2^n` modulo `2^(n+1)` inverts bit `n` and no other. -/
theorem add_two_pow_mod {b : Nat} (hb : b < 2 ^ (n + 1)) :
    (b + 2 ^ n) % 2 ^ (n + 1) = b ^^^ 2 ^ n := by
  refine Nat.eq_of_testBit_eq fun i => ?_
  rw [Nat.testBit_mod_two_pow, Nat.testBit_xor, Nat.add_comm b]
  rcases lt_trichotomy i n with hi | rfl | hi
  · rw [Nat.testBit_two_pow_add_gt hi, Nat.testBit_two_pow_of_ne hi.ne']
    simp [hi.trans n.lt_succ_self]
  · rw [Nat.testBit_two_pow_add_eq, Nat.testBit_two_pow_self]
    simp
  · have hhigh : b.testBit i = false :=
      Nat.testBit_lt_two_pow (hb.trans_le (Nat.pow_le_pow_right Nat.two_pos hi))
    rw [hhigh, Nat.testBit_two_pow_of_ne hi.ne]
    simp [hi.not_ge]

theorem ptrAdd_capacity (hr : r.toNat < 2 ^ (n + 1)) :
    ptrAdd n r (2 ^ n) = r ^^^ BitVec.ofNat 13 (2 ^ n) := by
  rw [ptrAdd, add_two_pow_mod hr, BitVec.ofNat_xor, BitVec.ofNat_toNat, BitVec.setWidth_eq]

theorem gray_capacity (hn : n ≤ 12) (hpos : 1 ≤ n) :
    gray (BitVec.ofNat 13 (2 ^ n)) = BitVec.ofNat 13 (3 <<< (n - 1)) := by
  interval_cases n <;> rfl

/-- A full buffer's pointers differ in their top bit alone, so their gray codes in the two top bits. -/
theorem gray_eq_iff_full (hn : n ≤ 12) (hpos : 1 ≤ n) (hw : w.toNat < 2 ^ (n + 1))
    (hr : r.toNat < 2 ^ (n + 1)) :
    gray w = gray r ^^^ BitVec.ofNat 13 (3 <<< (n - 1)) ↔ occ n w r = 2 ^ n := by
  have hlt : 2 ^ n < 2 ^ (n + 1) := Nat.pow_lt_pow_succ Nat.one_lt_two
  calc gray w = gray r ^^^ BitVec.ofNat 13 (3 <<< (n - 1))
      ↔ w = ptrAdd n r (2 ^ n) := by
        rw [← gray_capacity hn hpos, ← gray_xor, ← ptrAdd_capacity hr, gray_inj]
    _ ↔ occ n w r = 2 ^ n := by rw [eq_comm, ptrAdd_eq_iff hn hw hr hlt, eq_comm]

/-- Settles O53: the gray code is injective and commutes with `xor`. -/
theorem grayFlagsAgree : Obligations.GrayFlagsAgree := fun _ _ _ hn hw hr =>
  ⟨fun hpos => gray_eq_iff_full hn hpos hw hr, gray_inj⟩

end Sys2Proof.Machine
end

section
/-! PROOFS: both opinions of a buffer are conservative (40_ring_buffer.md R149, 10_state.md R24). The facts
about one buffer are stated once, of its own and its other side's pointers, and hold of either buffer. -/

namespace Sys2Proof.Safety

open Sys2Proof.Machine

variable {s : State} {n : Nat} {w r wv rv : Ptr}

/-! ### Either buffer under the invariant -/

theorem trueCount_eq_occ (s : State) (b : Buf) :
    s.trueCount b = occ (s.bufN b) (s.wOf b (producer b)) (s.rOf b (consumer b)) := by
  cases b <;> rfl

theorem Inv.bufN_le (h : Inv s) (b : Buf) : s.bufN b ≤ 12 := by
  cases b with
  | tx => exact h.nTx_le
  | rx => exact h.nRx_le

theorem Inv.wOf_lt (h : Inv s) (b : Buf) (d : Domain) : (s.wOf b d).toNat < 2 ^ (s.bufN b + 1) := by
  match b, d with
  | .tx, .fg => exact h.shape.txWptr
  | .tx, .isr => exact h.txWview
  | .rx, .fg => exact h.rxWview
  | .rx, .isr => exact h.shape.rxWptr

theorem Inv.rOf_lt (h : Inv s) (b : Buf) (d : Domain) : (s.rOf b d).toNat < 2 ^ (s.bufN b + 1) := by
  match b, d with
  | .tx, .fg => exact h.txRview
  | .tx, .isr => exact h.shape.txRptr
  | .rx, .fg => exact h.shape.rxRptr
  | .rx, .isr => exact h.rxRview

theorem Ordered.ring (h : Ordered s) (b : Buf) :
    RingOrdered (s.bufN b) (s.wOf b (producer b)) (s.rOf b (consumer b)) (s.wOf b (consumer b))
      (s.rOf b (producer b)) := by
  cases b with
  | tx => exact h.tx
  | rx => exact h.rx

/-! ### The two opinions and the true count -/

theorem RingOrdered.consumer_le_count (hn : n ≤ 12) (hw : w.toNat < 2 ^ (n + 1))
    (hr : r.toNat < 2 ^ (n + 1)) (hwv : wv.toNat < 2 ^ (n + 1)) (h : RingOrdered n w r wv rv) :
    occ n wv r ≤ occ n w r := by
  have hcount := ring_count hn hw hr hwv h
  omega

theorem RingOrdered.count_le_producer (hn : n ≤ 12) (hw : w.toNat < 2 ^ (n + 1))
    (hr : r.toNat < 2 ^ (n + 1)) (hwv : wv.toNat < 2 ^ (n + 1)) (h : RingOrdered n w r wv rv) :
    occ n w r ≤ occ n w rv := by
  have hcount := ring_count hn hw hr hwv h
  obtain ⟨hsum, -⟩ := h
  omega

/-- Settles O46: going forward one meets the producer's view of `r`, then `r`, then the consumer's view of
`w`, then `w`. -/
theorem opinionsConservative : Obligations.OpinionsConservative := by
  intro s h hp b
  have hring := (h.ordered hp).ring b
  have hn := h.bufN_le b
  have hw := h.wOf_lt b (producer b)
  have hr := h.rOf_lt b (consumer b)
  have hwv := h.wOf_lt b (consumer b)
  have hlow : s.occOf b (consumer b) ≤ s.trueCount b :=
    trueCount_eq_occ s b ▸ hring.consumer_le_count hn hw hr hwv
  have hhigh : s.trueCount b ≤ s.occOf b (producer b) :=
    trueCount_eq_occ s b ▸ hring.count_le_producer hn hw hr hwv
  have hroom : s.occOf b (producer b) ≤ 2 ^ s.bufN b := hring.2
  refine ⟨hlow, hhigh, hroom, fun hfull => ?_, fun hempty => ?_, fun hempty => ?_, fun hfull => ?_⟩
  · have hne : s.occOf b (producer b) ≠ 2 ^ s.bufN b := of_decide_eq_false hfull
    omega
  · have hne : s.wOf b (consumer b) ≠ s.rOf b (consumer b) := of_decide_eq_false hempty
    have hpos : s.occOf b (consumer b) ≠ 0 := mt (occ_eq_zero hn hwv hr).1 hne
    omega
  · have hzero : s.occOf b (producer b) = 0 :=
      (occ_eq_zero hn hw (h.rOf_lt b (producer b))).2 (of_decide_eq_true hempty)
    omega
  · have hcap : s.occOf b (consumer b) = 2 ^ s.bufN b := of_decide_eq_true hfull
    omega

end Sys2Proof.Safety
end

section
/-! PROOFS: the ring-buffer primitives taken by themselves (40_ring_buffer.md R141 to R145, R147): a law of
`exec` per primitive and case. -/

namespace Sys2Proof.Machine

variable {s t : State} {b : Buf} {d : Byte} {g : Tag}

/-! ### RB.IS_FULL, RB.IS_EMPTY and RB.OCC -/

theorem isEmpty_iff_occOf {dom : Domain} (hn : s.bufN b ≤ 12)
    (hw : (s.wOf b dom).toNat < 2 ^ (s.bufN b + 1)) (hr : (s.rOf b dom).toNat < 2 ^ (s.bufN b + 1)) :
    s.isEmpty b dom = true ↔ s.occOf b dom = 0 :=
  decide_eq_true_iff.trans (occ_eq_zero hn hw hr).symm

/-- Equal pointers are at distance 0, and a capacity is not 0. -/
theorem isFull_eq_false_of_isEmpty {dom : Domain} (he : s.isEmpty b dom = true) :
    s.isFull b dom = false := by
  have heq : s.wOf b dom = s.rOf b dom := of_decide_eq_true he
  have hocc : s.occOf b dom = 0 := by rw [State.occOf, heq, occ_self]
  exact decide_eq_false (hocc ▸ (capacity_pos (s.bufN b)).ne)

theorem not_isFull_and_isEmpty (s : State) (b : Buf) (dom : Domain) :
    (s.isFull b dom && s.isEmpty b dom) = false := by
  cases he : s.isEmpty b dom with
  | false => exact Bool.and_false _
  | true => rw [isFull_eq_false_of_isEmpty he]; rfl

/-- Settles O34: equal pointers are at distance 0; each answer is by definition the flag or count of the
state it is asked in. -/
theorem rbQueriesAnswer : Obligations.RbQueriesAnswer := fun s =>
  ⟨fun b dom => ⟨not_isFull_and_isEmpty s b dom, isEmpty_iff_occOf⟩,
    fun _ _ => rfl, fun _ _ => rfl, fun _ _ => rfl, rfl, rfl, rfl, rfl⟩

/-! ### RB.PUSH and RB.POP -/

theorem exec_rbPush_of_full (h : s.isFull b (producer b) = true) :
    exec (.rbPush b d g) s = .next s := if_pos h

theorem exec_rbPush_tx (h : s.isFull .tx .fg = false) :
    exec (.rbPush .tx d g) s = .next (s.pushTx d) := if_neg (Bool.eq_false_iff.1 h)

theorem exec_rbPush_rx (h : s.isFull .rx .isr = false) :
    exec (.rbPush .rx d g) s = .next (s.pushRx d g) := if_neg (Bool.eq_false_iff.1 h)

theorem exec_rbPop_of_empty (h : s.isEmpty b (consumer b) = true) :
    exec (.rbPop b) s = .next s := if_pos h

theorem exec_rbPop_tx (h : s.isEmpty .tx .isr = false) (hpop : s.popTx = .ok (d, t)) :
    exec (.rbPop .tx) s = .next (t.answer (.entry d none)) := by
  refine (if_neg (Bool.eq_false_iff.1 h)).trans ?_
  rw [hpop]

theorem exec_rbPop_rx (h : s.isEmpty .rx .fg = false) (hpop : s.popRx = .ok (d, g, t)) :
    exec (.rbPop .rx) s = .next (t.answer (.entry d (some g))) := by
  refine (if_neg (Bool.eq_false_iff.1 h)).trans ?_
  rw [hpop]

/-- Settles O35: past its precondition a push writes one entry of each storage of its buffer. -/
theorem rbPushPop : Obligations.RbPushPop := fun _ =>
  ⟨fun _ _ hf => ⟨_, exec_rbPush_tx hf, fun a => Mem.read_write _ _ a _⟩,
    fun _ _ hf => ⟨_, _, exec_rbPush_rx hf, fun a => Mem.read_write _ _ a _,
      fun a => Mem.read_write _ _ a _⟩,
    fun _ _ _ => exec_rbPush_of_full,
    fun _ he hd => exec_rbPop_tx he (popTx_ok.2 ⟨hd, rfl⟩),
    fun _ _ he hd hg => exec_rbPop_rx he (popRx_ok.2 ⟨hd, hg, rfl⟩),
    fun _ => exec_rbPop_of_empty⟩

/-! ### RB.INIT -/

/-- Settles O33: each part is by definition the register writes of `initFgPtr`, `initFgView` or
`initIsr`. -/
theorem rbInitParts : Obligations.RbInitParts := fun _ => ⟨rfl, rfl, rfl, rfl, rfl, rfl⟩

end Sys2Proof.Machine
end

section
/-! PROOFS: the foreground commands (41_fg_commands.md R171 to R179): a law of `exec` per command and the
state it is taken in. -/

namespace Sys2Proof.Machine

variable {s t : State} {baud : BitVec 16} {b : Byte} {g : Tag} {v : RspWord}

/-! ### Commands that complete at their acceptance edge -/

/-- At an idle port a response is the word and its strobe alone. -/
theorem respond_of_idle (hp : s.fg.phase = .idle) (v : RspWord) :
    s.respond v = { s with fg := { s.fg with rsp := v, rspValid := true } } := by
  rw [State.respond, ← hp]

theorem atOnce_of_idle (hp : s.fg.phase = .idle) :
    s.atOnce v = .next { s with fg := { s.fg with rsp := v, rspValid := true } } :=
  (if_pos (decide_eq_true hp)).trans (congrArg _ (respond_of_idle hp v))

theorem atOnce_of_busy (hp : s.fg.phase ≠ .idle) : s.atOnce v = .next s :=
  if_neg (Bool.eq_false_iff.1 (decide_eq_false hp))

theorem decodeCmd_nop {c : CmdWord} (h : opField c = 0#3) : decodeCmd c = .nop := by
  rw [decodeCmd, h]; rfl

theorem decodeCmd_rsvd7 {c : CmdWord} (h : opField c = 7#3) : decodeCmd c = .rsvd7 := by
  rw [decodeCmd, h]; rfl

/-- Settles O8: the decoder reads the operation field alone, and NOP asks only for an idle port. -/
theorem nopResponds : Obligations.NopResponds :=
  ⟨rfl, fun _ => decodeCmd_nop, fun _ => atOnce_of_idle⟩

/-- Settles O9: the decoder reads the operation field alone, and RSVD7 asks only for an idle port. -/
theorem illegalOpRefused : Obligations.IllegalOpRefused :=
  ⟨rfl, fun _ => decodeCmd_rsvd7, fun _ => atOnce_of_idle⟩

/-! ### OPEN -/

theorem exec_openLine_of_open (hp : s.fg.phase = .idle) (ho : s.fg.lineOpen = true) :
    exec (.openLine baud) s = .next (s.respond rspAlreadyOpen) := by
  simp only [exec, execOpenLine, hp, ho, if_true]

theorem exec_openLine_of_closed (hp : s.fg.phase = .idle) (ho : s.fg.lineOpen = false) :
    exec (.openLine baud) s = .next (s.openStart baud) := by
  simp only [exec, execOpenLine, hp, ho, Bool.false_eq_true, if_false]

theorem exec_openLine_of_openInit (hp : s.fg.phase = .openInit) :
    exec (.openLine baud) s = .next s.openRequest := by
  simp only [exec, execOpenLine, hp]

theorem exec_openLine_of_acknowledged (hp : s.fg.phase = .openWait) (ha : s.fg.enAckView = true) :
    exec (.openLine baud) s = .next s.openFinish := by
  simp only [exec, execOpenLine, hp, ha, if_true]

theorem exec_openLine_of_unacknowledged (hp : s.fg.phase = .openWait) (ha : s.fg.enAckView = false) :
    exec (.openLine baud) s = .next s.fgHeld := by
  simp only [exec, execOpenLine, hp, ha, Bool.false_eq_true, if_false]

theorem exec_openLine_of_busy
    (hp : s.fg.phase = .sendWait ∨ s.fg.phase = .closeDrain ∨ s.fg.phase = .closeWait) :
    exec (.openLine baud) s = .next s := by
  rcases hp with hp | hp | hp <;> simp only [exec, execOpenLine, hp]

/-- Settles O12: each step is the named update of its phase. -/
theorem openSteps : Obligations.OpenSteps := fun _ _ =>
  ⟨exec_openLine_of_closed, exec_openLine_of_openInit, exec_openLine_of_unacknowledged,
    exec_openLine_of_acknowledged⟩

/-! ### CLOSE -/

theorem exec_closeLine_of_closed (hp : s.fg.phase = .idle) (ho : s.fg.lineOpen = false) :
    exec .closeLine s = .next (s.respond rspNotOpen) := by
  simp only [exec, execCloseLine, hp, ho, Bool.false_eq_true, if_false]

theorem exec_closeLine_of_open (hp : s.fg.phase = .idle) (ho : s.fg.lineOpen = true) :
    exec .closeLine s = .next s.closeStart := by
  simp only [exec, execCloseLine, hp, ho, if_true]

theorem exec_closeLine_of_drained (hp : s.fg.phase = .closeDrain) (he : s.txEmptyFg = true) :
    exec .closeLine s = .next s.closeRequest := by
  simp only [exec, execCloseLine, hp, he, if_true]

theorem exec_closeLine_of_unsent (hp : s.fg.phase = .closeDrain) (he : s.txEmptyFg = false) :
    exec .closeLine s = .next s.fgHeld := by
  simp only [exec, execCloseLine, hp, he, Bool.false_eq_true, if_false]

theorem exec_closeLine_of_acknowledged (hp : s.fg.phase = .closeWait) (ha : s.fg.enAckView = true) :
    exec .closeLine s = .next s.fgHeld := by
  simp only [exec, execCloseLine, hp, ha, if_true]

theorem exec_closeLine_of_unacknowledged (hp : s.fg.phase = .closeWait)
    (ha : s.fg.enAckView = false) : exec .closeLine s = .next s.closeFinish := by
  simp only [exec, execCloseLine, hp, ha, Bool.false_eq_true, if_false]

theorem exec_closeLine_of_busy
    (hp : s.fg.phase = .sendWait ∨ s.fg.phase = .openInit ∨ s.fg.phase = .openWait) :
    exec .closeLine s = .next s := by
  rcases hp with hp | hp | hp <;> simp only [exec, execCloseLine, hp]

/-- Settles O13: each step is the named update of its phase. -/
theorem closeSteps : Obligations.CloseSteps := fun _ =>
  ⟨exec_closeLine_of_open, fun hp he => exec_closeLine_of_drained hp (decide_eq_true he),
    fun hp he => exec_closeLine_of_unsent hp (decide_eq_false he),
    exec_closeLine_of_acknowledged, exec_closeLine_of_unacknowledged⟩

/-! ### SEND -/

theorem exec_send_of_closed (hp : s.fg.phase = .idle) (ho : s.fg.lineOpen = false) :
    exec (.send b) s = .next (s.respond rspNotOpen) := by
  simp only [exec, execSend, hp, ho, Bool.not_false, if_true]

theorem exec_send_of_room (hp : s.fg.phase = .idle) (ho : s.fg.lineOpen = true)
    (hf : s.txFullFg = false) : exec (.send b) s = .next ((s.pushTx b).respond rspDone) := by
  simp only [exec, execSend, hp, ho, hf, Bool.not_true, Bool.false_eq_true, if_false]

theorem exec_send_of_full (hp : s.fg.phase = .idle) (ho : s.fg.lineOpen = true)
    (hf : s.txFullFg = true) : exec (.send b) s = .next (s.sendHold b) := by
  simp only [exec, execSend, hp, ho, hf, Bool.not_true, Bool.false_eq_true, if_false, if_true]

theorem exec_send_of_waiting_room (hp : s.fg.phase = .sendWait) (hf : s.txFullFg = false) :
    exec (.send b) s = .next ((s.pushTx s.fg.cmdHold).respond rspDone) := by
  simp only [exec, execSend, hp, hf, Bool.false_eq_true, if_false]

theorem exec_send_of_waiting_full (hp : s.fg.phase = .sendWait) (hf : s.txFullFg = true) :
    exec (.send b) s = .next s.fgHeld := by
  simp only [exec, execSend, hp, hf, if_true]

theorem exec_send_of_busy (hp : s.fg.phase = .openInit ∨ s.fg.phase = .openWait ∨
    s.fg.phase = .closeDrain ∨ s.fg.phase = .closeWait) : exec (.send b) s = .next s := by
  rcases hp with hp | hp | hp | hp <;> simp only [exec, execSend, hp]

/-- Settles O14: a SEND that completes is a push, which writes one entry. -/
theorem sendSteps : Obligations.SendSteps := fun _ _ =>
  ⟨fun hp ho hroom => ⟨_, (exec_send_of_room hp ho (decide_eq_false hroom)).trans
      (congrArg _ (respond_of_idle (s := State.pushTx _ _) hp rspDone)),
      fun a => Mem.read_write _ _ a _⟩,
    fun hp ho hfull => exec_send_of_full hp ho (decide_eq_true hfull),
    fun hp hfull => exec_send_of_waiting_full hp (decide_eq_true hfull),
    fun hp hroom => ⟨_, exec_send_of_waiting_room hp (decide_eq_false hroom),
      fun a => Mem.read_write _ _ a _⟩⟩

/-! ### READ -/

theorem exec_read_of_busy (hp : s.fg.phase ≠ .idle) : exec .read s = .next s := by
  simp only [exec, execRead, State.cmdReady, hp, decide_false, Bool.not_false, if_true]

theorem exec_read_of_empty (hp : s.fg.phase = .idle) (ho : s.fg.lineOpen = true)
    (he : s.rxEmptyFg = true) : exec .read s = .next (s.respond (rspEmpty s.fg.rxErrView)) := by
  simp only [exec, execRead, State.cmdReady, hp, ho, he, decide_true, Bool.not_true,
    Bool.false_eq_true, if_false, if_true]

theorem exec_read_of_data (hp : s.fg.phase = .idle) (ho : s.fg.lineOpen = true)
    (he : s.rxEmptyFg = false) (hpop : s.popRx = .ok (b, g, t)) : exec .read s =
      .next (t.respond (rspData (readFlags s.cfg.errTagMode g s.fg.rxErrView) b)) := by
  simp only [exec, execRead, State.cmdReady, hp, ho, he, hpop, decide_true, Bool.not_true,
    Bool.false_eq_true, if_false]

theorem readFlags_eq_ite (m : ErrTagMode) (g : Tag) (e : Byte) :
    readFlags m g e = if m = .perByte then g else e.extractLsb' 0 4 := by
  cases m <;> rfl

/-- Settles O15: with data a READ is a pop, answered; without, it is an answer alone. -/
theorem readSteps : Obligations.ReadSteps := by
  refine fun s hp ho => ⟨fun b t hne hb ht => ?_, fun he => ?_⟩
  · rw [exec_read_of_data hp ho (decide_eq_false hne.symm) (popRx_ok.2 ⟨hb, ht, rfl⟩),
      readFlags_eq_ite]
    refine congrArg _ (respond_of_idle ?_ _)
    exact hp
  · exact (exec_read_of_empty hp ho (decide_eq_true he.symm)).trans
      (congrArg _ (respond_of_idle hp _))

end Sys2Proof.Machine
end

section
/-! PROOFS: a step of FG (41_fg_commands.md R170, R180): the command it runs, the phase it leaves, and where
the line state changes. -/

namespace Sys2Proof.Machine

open Sys2Proof.Safety

variable {s t : State} {i : Instr}

/-! ### The command a step runs -/

theorem step_of_fg {rest : List Event} (hs : s.sched = .fg :: rest) (hl : s.cfg.level = .agent) :
    step s = fgStep { s with sched := rest } := by
  rw [step, nextEvent_of_sched hs, advance_of_sched hs]
  exact atLevel_of_eq hl

theorem fgStep_of_inProgress (h : s.inProgress = some i) : fgStep s = exec i s := by
  rw [fgStep, h]

theorem inProgress_of_idle (hp : s.fg.phase = .idle) : s.inProgress = none := by
  rw [State.inProgress, hp]

theorem fgStep_of_presented (hp : s.fg.phase = .idle) (hv : s.host.cmdValid = true) :
    fgStep s = exec (decodeCmd s.host.cmd) s.accept := by
  rw [fgStep, inProgress_of_idle hp]
  exact if_pos hv

theorem fgStep_of_nothing (hp : s.fg.phase = .idle) (hv : s.host.cmdValid = false) :
    fgStep s = .next s.fgHeld := by
  rw [fgStep, inProgress_of_idle hp]
  exact if_neg (Bool.eq_false_iff.1 hv)

theorem fgStep_of_sendWait (hp : s.fg.phase = .sendWait) :
    fgStep s = exec (.send s.fg.cmdHold) s :=
  fgStep_of_inProgress (by rw [State.inProgress, hp])

theorem fgStep_of_opening (hp : s.fg.phase = .openInit ∨ s.fg.phase = .openWait) :
    fgStep s = exec (.openLine s.fg.baudHold) s :=
  fgStep_of_inProgress (by rcases hp with hp | hp <;> rw [State.inProgress, hp])

theorem fgStep_of_closing (hp : s.fg.phase = .closeDrain ∨ s.fg.phase = .closeWait) :
    fgStep s = exec .closeLine s :=
  fgStep_of_inProgress (by rcases hp with hp | hp <;> rw [State.inProgress, hp])

/-- Settles O5: the schedule names FG, and the phase and `cmd_valid` say what FG runs. -/
theorem stepRunsForegroundCommand : Obligations.StepRunsForegroundCommand := fun _ _ hs hl =>
  ⟨fun hp hv => (step_of_fg hs hl).trans (fgStep_of_presented hp hv),
    fun hp hv => (step_of_fg hs hl).trans (fgStep_of_nothing hp hv),
    fun hp => (step_of_fg hs hl).trans (fgStep_of_sendWait hp),
    fun hp => (step_of_fg hs hl).trans (fgStep_of_opening hp),
    fun hp => (step_of_fg hs hl).trans (fgStep_of_closing hp)⟩

/-! ### The phase a command leaves -/

theorem phase_of_openLine {baud : BitVec 16} (hp : s.fg.phase = .idle)
    (h : exec (.openLine baud) s = .next t) :
    t.fg.phase = if s.fg.lineOpen then .idle else .openInit := by
  cases ho : s.fg.lineOpen with
  | true => cases (exec_openLine_of_open hp ho).symm.trans h; rfl
  | false => cases (exec_openLine_of_closed hp ho).symm.trans h; rfl

theorem phase_of_closeLine (hp : s.fg.phase = .idle) (h : exec .closeLine s = .next t) :
    t.fg.phase = if s.fg.lineOpen then .closeDrain else .idle := by
  cases ho : s.fg.lineOpen with
  | true => cases (exec_closeLine_of_open hp ho).symm.trans h; rfl
  | false => cases (exec_closeLine_of_closed hp ho).symm.trans h; rfl

theorem phase_of_send {b : Byte} (hp : s.fg.phase = .idle) (h : exec (.send b) s = .next t) :
    t.fg.phase = if s.fg.lineOpen && s.txFullFg then .sendWait else .idle := by
  cases ho : s.fg.lineOpen with
  | false => cases (exec_send_of_closed hp ho).symm.trans h; rfl
  | true =>
    cases hf : s.txFullFg with
    | true => cases (exec_send_of_full hp ho hf).symm.trans h; rfl
    | false => cases (exec_send_of_room hp ho hf).symm.trans h; rfl

theorem phase_of_atOnce {v : RspWord} (hp : s.fg.phase = .idle) (h : s.atOnce v = .next t) :
    t.fg.phase = .idle := by
  cases (atOnce_of_idle hp).symm.trans h
  exact hp

theorem phase_of_read (hp : s.fg.phase = .idle) (h : exec .read s = .next t) :
    t.fg.phase = .idle := by
  rcases execRead_next h with ⟨hbusy, -⟩ | ⟨-, -, rfl⟩ | ⟨-, -, -, rfl⟩ | ⟨-, -, -, b, g, -, -, rfl⟩
  case inl => exact absurd hp hbusy
  all_goals rfl

theorem phase_of_openWait {baud : BitVec 16} (hp : s.fg.phase = .openWait)
    (h : exec (.openLine baud) s = .next t) :
    t.fg.phase = if s.fg.enAckView then .idle else .openWait := by
  cases ha : s.fg.enAckView with
  | true => cases (exec_openLine_of_acknowledged hp ha).symm.trans h; rfl
  | false => cases (exec_openLine_of_unacknowledged hp ha).symm.trans h; exact hp

theorem phase_of_closeDrain (hp : s.fg.phase = .closeDrain) (h : exec .closeLine s = .next t) :
    t.fg.phase = if s.txEmptyFg then .closeWait else .closeDrain := by
  cases he : s.txEmptyFg with
  | true => cases (exec_closeLine_of_drained hp he).symm.trans h; rfl
  | false => cases (exec_closeLine_of_unsent hp he).symm.trans h; exact hp

theorem phase_of_closeWait (hp : s.fg.phase = .closeWait) (h : exec .closeLine s = .next t) :
    t.fg.phase = if s.fg.enAckView then .closeWait else .idle := by
  cases ha : s.fg.enAckView with
  | true => cases (exec_closeLine_of_acknowledged hp ha).symm.trans h; exact hp
  | false => cases (exec_closeLine_of_unacknowledged hp ha).symm.trans h; rfl

theorem phase_of_sendWait {b : Byte} (hp : s.fg.phase = .sendWait) (h : exec (.send b) s = .next t) :
    t.fg.phase = if s.txFullFg then .sendWait else .idle := by
  cases hf : s.txFullFg with
  | true => cases (exec_send_of_waiting_full hp hf).symm.trans h; exact hp
  | false => cases (exec_send_of_waiting_room hp hf).symm.trans h; rfl

/-! ### Where the line state changes -/

theorem lineOpen_of_openLine {baud : BitVec 16} (h : execOpenLine baud s = .next t)
    (hne : t.fg.lineOpen ≠ s.fg.lineOpen) :
    s.fg.phase = .openWait ∧ t.fg.phase = .idle ∧ t.fg.lineOpen = true := by
  rcases execOpenLine_next h with
    ⟨-, -, rfl⟩ | ⟨-, -, rfl⟩ | ⟨-, rfl⟩ | ⟨hp, -, rfl⟩ | ⟨-, -, rfl⟩ | ⟨-, -, -, rfl⟩
  case inr.inr.inr.inl => exact ⟨hp, rfl, rfl⟩
  all_goals exact absurd rfl hne

theorem lineOpen_of_closeLine (h : execCloseLine s = .next t)
    (hne : t.fg.lineOpen ≠ s.fg.lineOpen) :
    s.fg.phase = .closeWait ∧ t.fg.phase = .idle ∧ t.fg.lineOpen = false := by
  rcases execCloseLine_next h with ⟨-, -, rfl⟩ | ⟨-, -, rfl⟩ | ⟨-, -, rfl⟩ | ⟨-, -, rfl⟩ |
    ⟨hp, -, rfl⟩ | ⟨-, -, rfl⟩ | ⟨-, -, -, rfl⟩
  case inr.inr.inr.inr.inl => exact ⟨hp, rfl, rfl⟩
  all_goals exact absurd rfl hne

/-- Of all operations only OPEN and CLOSE write the line state (10_state.md R44). -/
theorem lineOpen_of_exec (h : exec i s = .next t) (hne : t.fg.lineOpen ≠ s.fg.lineOpen) :
    (s.fg.phase = .openWait ∧ t.fg.phase = .idle ∧ t.fg.lineOpen = true) ∨
    (s.fg.phase = .closeWait ∧ t.fg.phase = .idle ∧ t.fg.lineOpen = false) := by
  rcases lineOpen_writer ⟨s, t, h, hne⟩ with ⟨baud, rfl⟩ | rfl
  · exact .inl (lineOpen_of_openLine h hne)
  · exact .inr (lineOpen_of_closeLine h hne)

theorem lineOpen_of_fgStep (h : fgStep s = .next t) (hne : t.fg.lineOpen ≠ s.fg.lineOpen) :
    (s.fg.phase = .openWait ∧ t.fg.phase = .idle ∧ t.fg.lineOpen = true) ∨
    (s.fg.phase = .closeWait ∧ t.fg.phase = .idle ∧ t.fg.lineOpen = false) := by
  rcases fgStep_next h with ⟨i, -, he⟩ | ⟨-, -, he⟩ | ⟨-, -, rfl⟩
  · exact lineOpen_of_exec he hne
  · exact lineOpen_of_exec (s := s.accept) he hne
  · exact absurd rfl hne

/-- Settles O19: by the phase FG steps from and, at an idle port, the command it accepts. -/
theorem fgPhaseTransitions : Obligations.FgPhaseTransitions := by
  refine fun s t h => ⟨?_, lineOpen_of_fgStep h⟩
  cases hp : s.fg.phase with
  | idle =>
    cases hv : s.host.cmdValid with
    | false => cases (fgStep_of_nothing hp hv).symm.trans h; exact hp
    | true =>
      rw [fgStep_of_presented hp hv] at h
      have hcommand := decodeCmd_isFgCommand s.host.cmd
      cases hi : decodeCmd s.host.cmd <;> rw [hi] at h hcommand
      case openLine => exact phase_of_openLine (s := s.accept) hp h
      case closeLine => exact phase_of_closeLine (s := s.accept) hp h
      case send => exact phase_of_send (s := s.accept) hp h
      case read => exact phase_of_read (s := s.accept) hp h
      case nop | txstat | rxstat | rsvd7 => exact phase_of_atOnce (s := s.accept) hp h
      all_goals exact hcommand.elim
  | openInit =>
    rw [fgStep_of_opening (.inl hp), exec_openLine_of_openInit hp] at h
    cases h; rfl
  | openWait => exact phase_of_openWait hp ((fgStep_of_opening (.inr hp)).symm.trans h)
  | closeDrain => exact phase_of_closeDrain hp ((fgStep_of_closing (.inl hp)).symm.trans h)
  | closeWait => exact phase_of_closeWait hp ((fgStep_of_closing (.inr hp)).symm.trans h)
  | sendWait => exact phase_of_sendWait hp ((fgStep_of_sendWait hp).symm.trans h)

end Sys2Proof.Machine
end

section
/-! PROOFS: the status commands (41_fg_commands.md R177, R178, 30_encoding.md R104). -/

namespace Sys2Proof.Machine

open Sys2Proof.Safety

/-- A status word is its four fields, each shifted to its place (30_encoding.md R104): they do not overlap
as long as the occupancy fits 13 bits. -/
theorem statWord_eq_shifted (full empty isOpen : Bool) {o : Nat} (ho : o < 2 ^ 13) :
    statWord full empty (!isOpen) o =
      ((BitVec.ofBool full).setWidth 16 <<< 15) ||| ((BitVec.ofBool empty).setWidth 16 <<< 14) |||
        ((1#16 - (BitVec.ofBool isOpen).setWidth 16) <<< 13) ||| BitVec.ofNat 16 o := by
  apply BitVec.eq_of_toNat_eq
  have hlow : (BitVec.ofNat 13 o).toNat = o := Nat.mod_eq_of_lt ho
  have hwide : (BitVec.ofNat 16 o).toNat = o := Nat.mod_eq_of_lt (ho.trans (by decide))
  simp only [statWord, BitVec.toNat_append, BitVec.toNat_or, hlow, hwide, ← Nat.or_assoc]
  cases full <;> cases empty <;> cases isOpen <;> rfl

/-- An occupancy is the low bits of a 13-bit difference. -/
theorem occ_lt_two_pow_13 (n : Nat) (w r : Ptr) : occ n w r < 2 ^ 13 :=
  (Nat.mod_le _ _).trans_lt (w - r).isLt

theorem statOf_eq_shifted (s : State) (b : Buf) : s.statOf b =
    ((BitVec.ofBool (s.isFull b .fg)).setWidth 16 <<< 15) |||
      ((BitVec.ofBool (s.isEmpty b .fg)).setWidth 16 <<< 14) |||
      ((1#16 - (BitVec.ofBool s.fg.lineOpen).setWidth 16) <<< 13) ||| BitVec.ofNat 16 (s.occOf b .fg) :=
  statWord_eq_shifted _ _ _ (occ_lt_two_pow_13 _ _ _)

/-- Settles O16: the words are the foreground's opinions, which err on the safe side. -/
theorem statusCommandsAnswer : Obligations.StatusCommandsAnswer := by
  refine ⟨⟨rfl, rfl⟩, fun s hp => ⟨?_, ?_⟩, fun s h hp => ?_⟩
  · exact statOf_eq_shifted s .tx ▸ (atOnce_of_idle hp : exec .txstat s = _)
  · simp only [eq_comm (a := s.fg.rxRptr)]
    exact statOf_eq_shifted s .rx ▸ (atOnce_of_idle hp : exec .rxstat s = _)
  · have hop : ¬Opening s := by simp [Opening, hp]
    obtain ⟨-, htx, -⟩ := opinionsConservative s h hop .tx
    obtain ⟨hrx, -⟩ := opinionsConservative s h hop .rx
    exact ⟨htx, hrx⟩

end Sys2Proof.Machine
end

section
/-! PROOFS: SENDSEQ and the host's side of the command port (41_fg_commands.md R175, 44_environment.md
R249). -/

namespace Sys2Proof.Machine

variable {s : State} {c w : CmdWord} {rest : List CmdWord}

theorem decodeCmd_sendWord (b : Byte) : decodeCmd (sendWord b) = .send b :=
  decodeCmd_of_encodeCmd (i := .send b) rfl

theorem hostPresent_of_pending (hp : s.fg.phase = .idle) (hv : s.host.cmdValid = false)
    (hl : s.host.pending = c :: rest) :
    hostPresent w s = { s with host := { cmdValid := true, cmd := c, pending := rest } } := by
  simp [hostPresent, State.cmdReady, hp, hv, hl]

theorem hostPresent_of_no_pending (hp : s.fg.phase = .idle) (hv : s.host.cmdValid = false)
    (hl : s.host.pending = []) :
    hostPresent w s = { s with host := { cmdValid := true, cmd := w, pending := [] } } := by
  simp [hostPresent, State.cmdReady, hp, hv, hl]

theorem hostPresent_of_busy (h : s.fg.phase ≠ .idle ∨ s.host.cmdValid = true) :
    hostPresent w s = s := by
  rcases h with hp | hv
  · simp [hostPresent, State.cmdReady, hp]
  · simp [hostPresent, hv]

/-- Settles O17: the appended words are by definition those of `sendWord`, which decode to their SENDs. -/
theorem sendseqExpands : Obligations.SendseqExpands :=
  ⟨fun _ _ => rfl, decodeCmd_sendWord, fun _ _ _ _ => hostPresent_of_pending,
    fun _ _ => hostPresent_of_no_pending, fun _ _ => hostPresent_of_busy⟩

end Sys2Proof.Machine
end

section
/-! PROOFS: a step whose guard is false leaves the state as it is (41_fg_commands.md R170,
42_isr_handlers.md R201 to R206, 43_cdc_sync.md R221, R228, 44_environment.md R242, R244). -/

namespace Sys2Proof.Machine

open Sys2Proof.Safety

variable {s : State}

/-! ### Handlers, CTL and the environment -/

theorem exec_isrRxc_of_no_trigger (h : s.irqRx = false) : exec .isrRxc s = .next s :=
  if_neg (Bool.eq_false_iff.1 h)

theorem exec_isrDre_of_no_trigger (h : s.irqTx = false) : exec .isrDre s = .next s :=
  if_pos (Bool.not_eq_true' _ ▸ h)

theorem exec_ctlEnable_of_forbidden (h : s.isr.phase ≠ .disabled ∨ s.isr.enReqView = false) :
    exec .ctlEnable s = .next s :=
  if_neg (by rcases h with h | h <;> simp [h])

theorem exec_ctlClose1_of_forbidden (h : s.isr.phase ≠ .enabled ∨ s.isr.enReqView = true) :
    exec .ctlClose1 s = .next s :=
  if_neg (by rcases h with h | h <;> simp [h])

theorem exec_ctlClose2_of_forbidden (h : s.isr.phase ≠ .waitDre ∨ s.ser.dre = false) :
    exec .ctlClose2 s = .next s :=
  if_neg (by rcases h with h | h <;> simp [h])

theorem exec_ctlClose3_of_forbidden (h : s.isr.phase ≠ .settle) : exec .ctlClose3 s = .next s :=
  if_pos h

theorem exec_envRxArrive_of_forbidden {d : Byte} {e : BitVec 3}
    (h : s.isr.rxen = false ∨ s.ser.rxc = true) : exec (.envRxArrive d e) s = .next s :=
  if_neg (by rcases h with h | h <;> simp [h])

theorem exec_envTxReady_of_forbidden (h : s.ser.dre = true ∨ s.isr.txen = false) :
    exec .envTxReady s = .next s :=
  if_neg (by rcases h with h | h <;> simp [h])

/-! ### Crossings -/

/-- A view stays where its crossing is off, where it equals its original, and for a value that is its own or
past its original (43_cdc_sync.md R221, R228). -/
theorem not_crosses {on : Bool} {n : Nat} {v x p : Ptr}
    (h : on = false ∨ v = p ∨ x = v ∨ occ n p v < occ n x v) : ¬(on && mayAdvance n v x p) = true := by
  rw [Bool.and_eq_true, mayAdvance_iff]
  rintro ⟨hon, -, hne, hmoves, hbetween⟩
  rcases h with hoff | heq | hstays | hpast
  · exact absurd hon (Bool.eq_false_iff.1 hoff)
  · exact hne heq
  · exact hmoves hstays
  · exact absurd hbetween (Nat.not_le_of_lt hpast)

theorem isrCrossingsOn_of_disabled (h : s.isr.phase = .disabled) : s.isrCrossingsOn = false :=
  decide_eq_false (not_not_intro h)

theorem fgCrossingsOn_of_opening (h : Opening s) : s.fgCrossingsOn = false := by
  rcases h with h | h <;> simp [State.fgCrossingsOn, h]

theorem exec_syncTxw_of_forbidden {x : Ptr} (h : s.isr.phase = .disabled ∨ s.isr.txWview = s.fg.txWptr ∨
    x = s.isr.txWview ∨ occ s.cfg.nTx s.fg.txWptr s.isr.txWview < occ s.cfg.nTx x s.isr.txWview) :
    exec (.syncTxw x) s = .next s :=
  if_neg (not_crosses (h.imp_left isrCrossingsOn_of_disabled))

theorem exec_syncTxr_of_forbidden {x : Ptr} (h : Opening s ∨ s.fg.txRview = s.isr.txRptr ∨
    x = s.fg.txRview ∨ occ s.cfg.nTx s.isr.txRptr s.fg.txRview < occ s.cfg.nTx x s.fg.txRview) :
    exec (.syncTxr x) s = .next s :=
  if_neg (not_crosses (h.imp_left fgCrossingsOn_of_opening))

theorem exec_syncRxw_of_forbidden {x : Ptr} (h : Opening s ∨ s.fg.rxWview = s.isr.rxWptr ∨
    x = s.fg.rxWview ∨ occ s.cfg.nRx s.isr.rxWptr s.fg.rxWview < occ s.cfg.nRx x s.fg.rxWview) :
    exec (.syncRxw x) s = .next s :=
  if_neg (not_crosses (h.imp_left fgCrossingsOn_of_opening))

theorem exec_syncRxr_of_forbidden {x : Ptr} (h : s.isr.phase = .disabled ∨ s.isr.rxRview = s.fg.rxRptr ∨
    x = s.isr.rxRview ∨ occ s.cfg.nRx s.fg.rxRptr s.isr.rxRview < occ s.cfg.nRx x s.isr.rxRview) :
    exec (.syncRxr x) s = .next s :=
  if_neg (not_crosses (h.imp_left isrCrossingsOn_of_disabled))

/-- Settles O32: each operation that changes the state does so past its guard alone. -/
theorem forbiddenStepsChangeNothing : Obligations.ForbiddenStepsChangeNothing := fun _ =>
  ⟨fun hp => ⟨atOnce_of_busy hp, exec_read_of_busy hp, atOnce_of_busy hp, atOnce_of_busy hp,
      atOnce_of_busy hp⟩,
    fun hp _ => exec_openLine_of_busy hp, exec_closeLine_of_busy, fun hp _ => exec_send_of_busy hp,
    exec_isrRxc_of_no_trigger, exec_isrDre_of_no_trigger, exec_ctlEnable_of_forbidden,
    exec_ctlClose1_of_forbidden, exec_ctlClose2_of_forbidden, exec_ctlClose3_of_forbidden,
    fun _ => exec_syncTxw_of_forbidden, fun _ => exec_syncTxr_of_forbidden,
    fun _ => exec_syncRxw_of_forbidden, fun _ => exec_syncRxr_of_forbidden,
    fun _ _ => exec_envRxArrive_of_forbidden, exec_envTxReady_of_forbidden⟩

end Sys2Proof.Machine
end

section
/-! PROOFS: the handlers and CTL past their guards (42_isr_handlers.md R201 to R206). -/

namespace Sys2Proof.Machine

open Sys2Proof.Safety

variable {s : State}

/-! ### The handlers -/

theorem exec_isrRxc_of_room (hi : s.irqRx = true) (hf : s.rxFullIsr = false) :
    exec .isrRxc s = .next s.storeRx.takeRx :=
  (if_pos hi).trans (by rw [hf]; rfl)

theorem exec_isrRxc_of_full (hi : s.irqRx = true) (hf : s.rxFullIsr = true) :
    exec .isrRxc s = .next s.dropRx.takeRx :=
  (if_pos hi).trans (by rw [hf]; rfl)

/-- Settles O20: the store writes byte and tag at one index, and a read gives them there alone. -/
theorem rxcSteps : Obligations.RxcSteps := by
  intro s hrxc hrxcie
  have hirq : s.irqRx = true := Bool.and_eq_true_iff.2 ⟨hrxc, hrxcie⟩
  refine ⟨hirq, fun hroom => ?_, fun hfull => exec_isrRxc_of_full hirq (decide_eq_true hfull)⟩
  exact ⟨_, _, exec_isrRxc_of_room hirq (decide_eq_false hroom), fun _ => Mem.read_write _ _ _ _,
    fun _ => Mem.read_write _ _ _ _⟩

theorem exec_isrDre_of_empty (hi : s.irqTx = true) (he : s.txEmptyIsr = true) :
    exec .isrDre s = .next { s with isr := { s.isr with dreie := false } } :=
  (if_neg (by simp [hi])).trans (if_pos he)

theorem exec_isrDre_of_data {b : Byte} (hi : s.irqTx = true) (he : s.txEmptyIsr = false)
    (hb : Mem.read (w := 8) s.fg.txMem (idx s.cfg.nTx s.isr.txRptr) = some b) :
    exec .isrDre s = .next { s with
      isr := { s.isr with txRptr := ptrInc s.cfg.nTx s.isr.txRptr }
      ser := { s.ser with dre := false }
      ghost := { s.ghost with txSink := s.ghost.txSink ++ [b] } } := by
  simp only [exec, execIsrDre, hi, he, popTx_ok.2 ⟨hb, rfl⟩]
  rfl

/-- Settles O21: the handler and both outputs ask whether the interrupt domain knows of a byte. -/
theorem dreSteps : Obligations.DreSteps := by
  intro s hdre hdreie
  have hirq : s.irqTx = true := Bool.and_eq_true_iff.2 ⟨hdre, hdreie⟩
  refine ⟨fun b hne hb => ?_, fun heq => ?_⟩
  · have hdata : s.txEmptyIsr = false := decide_eq_false (Ne.symm hne)
    have htxWr : s.txWr = true := by simp [State.txWr, hirq, hdata]
    exact ⟨htxWr, (if_pos htxWr).trans hb, exec_isrDre_of_data hirq hdata hb⟩
  · have hempty : s.txEmptyIsr = true := decide_eq_true heq.symm
    exact ⟨by simp [State.txWr, hempty], exec_isrDre_of_empty hirq hempty⟩

/-! ### CTL -/

theorem exec_ctlEnable_of_requested (hp : s.isr.phase = .disabled) (hv : s.isr.enReqView = true) :
    exec .ctlEnable s = .next s.enableIsr :=
  if_pos (by simp [hp, hv])

theorem exec_ctlClose1_of_withdrawn (hp : s.isr.phase = .enabled) (hv : s.isr.enReqView = false) :
    exec .ctlClose1 s = .next s.noteClose :=
  if_pos (by simp [hp, hv])

theorem exec_ctlClose2_of_ready (hp : s.isr.phase = .waitDre) (hd : s.ser.dre = true) :
    exec .ctlClose2 s = .next s.startSettle :=
  if_pos (by simp [hp, hd])

theorem exec_ctlClose3_of_agent (hp : s.isr.phase = .settle) (hl : s.cfg.level = .agent) :
    exec .ctlClose3 s = .next s.disableIsr :=
  (if_neg (not_not_intro hp)).trans (by rw [hl])

/-- Settles O23: `State.enableIsr` is this update. -/
theorem ctlEnables : Obligations.CtlEnables := fun _ => exec_ctlEnable_of_requested

/-- Only a CLOSE that waits leaves CTL's request view low with the line enabled (R204). -/
theorem lineClosing_of_withdrawn (h : Handshake s) (hp : s.isr.phase = .enabled)
    (hv : s.isr.enReqView = false) : LineClosing s := by
  rcases handshake_situation h with hc | hr | ho | hcl
  · simp [hc.isrPhase] at hp
  · simp [hr.enReqView hp] at hv
  · simp [ho.enReqView] at hv
  · exact hcl

/-- Settles O24: the request is withdrawn by a CLOSE alone, which has waited until the foreground's opinion
of the transmit buffer was empty; the order of the pointers makes every other opinion empty too. -/
theorem close1NotesRequest : Obligations.Close1NotesRequest := by
  refine fun s hp hv => ⟨exec_ctlClose1_of_withdrawn hp hv, fun h => ?_⟩
  have hclosing := (lineClosing_of_withdrawn h.handshake hp hv).phase
  obtain ⟨hwview, hrview⟩ := h.tx_empty_of_closing hclosing
  exact ⟨hwview.trans (hrview.symm.trans (h.drained hclosing).symm), hwview⟩

/-- Settles O25: `State.startSettle` and `State.disableIsr` are these updates. -/
theorem close2StartsClose3Disables : Obligations.Close2StartsClose3Disables := fun _ =>
  ⟨exec_ctlClose2_of_ready, exec_ctlClose3_of_agent⟩

end Sys2Proof.Machine
end

section
/-! PROOFS: every transition of `isr_phase` (42_isr_handlers.md R209). -/

namespace Sys2Proof.Machine

open Sys2Proof.Safety

variable {s t : State} {i : Instr}

/-! ### The phase CTL leaves -/

theorem phase_of_ctlEnable (hp : s.isr.phase = .disabled) (h : exec .ctlEnable s = .next t) :
    t.isr.phase = if s.isr.enReqView then .enabled else .disabled := by
  rcases execCtlEnable_next h with ⟨-, hv, rfl⟩ | ⟨hno, rfl⟩
  · simp [hv]
  · have hv : t.isr.enReqView = false := by simpa [hp] using hno
    simp [hp, hv]

theorem phase_of_ctlClose1 (hp : s.isr.phase = .enabled) (h : exec .ctlClose1 s = .next t) :
    t.isr.phase = if s.isr.enReqView then .enabled else .waitDre := by
  rcases execCtlClose1_next h with ⟨-, hv, rfl⟩ | ⟨hno, rfl⟩
  · simp [hv]
  · have hv : t.isr.enReqView = true := by simpa [hp] using hno
    simp [hp, hv]

theorem phase_of_ctlClose2 (hp : s.isr.phase = .waitDre) (h : exec .ctlClose2 s = .next t) :
    t.isr.phase = if s.ser.dre then .settle else .waitDre := by
  rcases execCtlClose2_next h with ⟨-, hd, rfl⟩ | ⟨hno, rfl⟩
  · simp [hd]
  · have hd : t.ser.dre = false := by simpa [hp] using hno
    simp [hp, hd]

theorem phase_of_ctlClose3 (hp : s.isr.phase = .settle) (h : exec .ctlClose3 s = .next t) :
    t.isr.phase =
      if s.cfg.level = .register ∧ s.isr.settleCnt ≠ 0 then .settle else .disabled := by
  rcases execCtlClose3_next h with ⟨hno, -⟩ | ⟨-, hl, hc, rfl⟩ | ⟨-, hend, rfl⟩
  · exact absurd hp hno
  · rw [if_pos ⟨hl, hc⟩]
    exact hp
  · rw [if_neg]
    · rfl
    · rintro ⟨hl, hc⟩
      rcases hend with hagent | hzero
      · simp [hl] at hagent
      · exact hc hzero

/-! ### No other step changes the phase -/

/-- An operation of CTL for a phase the state is not in does nothing, and no other writes the phase. -/
theorem eq_ctlInstr_of_phase_ne (h : exec i s = .next t) (hne : t.isr.phase ≠ s.isr.phase) :
    i = ctlInstr s.isr.phase := by
  have hwrites : Writes i (fun s => (s.isr.phase, s.isr.settleCnt)) :=
    ⟨s, t, h, fun heq => hne (congrArg Prod.fst heq)⟩
  rcases isrSequencer_writer hwrites with rfl | rfl | rfl | rfl
  · rcases execCtlEnable_next h with ⟨hp, -, -⟩ | ⟨-, rfl⟩
    · rw [hp]; rfl
    · exact absurd rfl hne
  · rcases execCtlClose1_next h with ⟨hp, -, -⟩ | ⟨-, rfl⟩
    · rw [hp]; rfl
    · exact absurd rfl hne
  · rcases execCtlClose2_next h with ⟨hp, -, -⟩ | ⟨-, rfl⟩
    · rw [hp]; rfl
    · exact absurd rfl hne
  · rcases execCtlClose3_next h with ⟨-, rfl⟩ | ⟨-, -, -, rfl⟩ | ⟨hp, -, -⟩
    · exact absurd rfl hne
    · exact absurd rfl hne
    · rw [hp]; rfl

/-- From the noted request to the disable, a CLOSE waits in the foreground domain. -/
theorem lineClosing_of_noted (h : Handshake s) (hp : s.isr.phase = .waitDre ∨ s.isr.phase = .settle) :
    LineClosing s := by
  rcases handshake_situation h with hc | hr | ho | hcl
  · simp [hc.isrPhase] at hp
  · rcases hr.isrPhase with hd | he
    · simp [hd] at hp
    · simp [he] at hp
  · simp [ho.isrPhase] at hp
  · exact hcl

/-- Settles O27: CTL's step by phase, the single-writer table for every other operation, and the handshake
of a CLOSE that waits. -/
theorem isrPhaseTransitions : Obligations.IsrPhaseTransitions := by
  refine ⟨fun s t h => ?_, fun i s t => eq_ctlInstr_of_phase_ne, fun s h hp => ?_⟩
  · cases hp : s.isr.phase <;> rw [hp] at h
    case disabled => exact phase_of_ctlEnable hp h
    case enabled => exact phase_of_ctlClose1 hp h
    case waitDre => exact phase_of_ctlClose2 hp h
    case settle => exact phase_of_ctlClose3 hp h
  · have hclosing := lineClosing_of_noted h.handshake hp
    exact ⟨hclosing.enReqView (by rcases hp with hp | hp <;> simp [hp]), hclosing.enReq⟩

end Sys2Proof.Machine
end

section
/-! PROOFS: the settling delay on edges of `clk_isr` (42_isr_handlers.md R206, R207, 60_exceptions.md
R274). One edge in `SETTLE` is the handlers and the chains, which leave CTL's registers alone, and then a
tick or the disable; with the transmit path drained no edge can stop, and they are counted one by one. -/

namespace Sys2Proof.Machine

open Sys2Proof.Safety

variable {s t u : State}

/-! ### One edge in `SETTLE` -/

/-- What CTL sets and the settling delay holds: everything it writes but the counter and DREIE, which
`ISR.DRE` and the chains write too (10_state.md R44). -/
def ctlRegs (s : State) : IsrPhase × BitVec 16 × Bool × Bool × Bool × Bool :=
  (s.isr.phase, s.isr.baud, s.isr.rxen, s.isr.txen, s.isr.rxcie, s.isr.enAck)

theorem ctlRegs_eq_iff : ctlRegs t = ctlRegs s ↔
    t.isr.phase = s.isr.phase ∧ t.isr.baud = s.isr.baud ∧ t.isr.rxen = s.isr.rxen ∧
    t.isr.txen = s.isr.txen ∧ t.isr.rxcie = s.isr.rxcie ∧ t.isr.enAck = s.isr.enAck := by
  simp only [ctlRegs, Prod.mk.injEq]

theorem ctlOnEdge_of_counting (hp : s.isr.phase = .settle) (hc : s.isr.settleCnt ≠ 0) :
    ctlOnEdge s u = u.settleTick := by
  simp only [ctlOnEdge, hp]
  exact if_pos hc

theorem ctlOnEdge_of_expired (hp : s.isr.phase = .settle) (hc : s.isr.settleCnt = 0) :
    ctlOnEdge s u = u.disableIsr := by
  simp only [ctlOnEdge, hp]
  exact if_neg (not_not_intro hc)

/-- The handlers and the chains leave to CTL, which comes last on the edge, all that is CTL's. -/
theorem isrEdge_ctl {g : IsrSample} (h : isrEdge g s = .next t) :
    ∃ u, ctlRegs u = ctlRegs s ∧ u.isr.settleCnt = s.isr.settleCnt ∧ t = ctlOnEdge s u := by
  obtain ⟨a, b, ha, hb, rfl⟩ := isrEdge_next h
  exact ⟨isrChains g s b, (exec_keeps ctlRegs rfl hb).trans (exec_keeps ctlRegs rfl ha),
    (exec_keeps (·.isr.settleCnt) rfl hb).trans (exec_keeps (·.isr.settleCnt) rfl ha), rfl⟩

theorem stepEvent_clock_isr (m : Masks) (hl : s.cfg.level = .register) :
    stepEvent (.clock .isr m) s = isrEdge s.isrSource s := atLevel_of_eq hl

/-! ### One edge with the transmit path drained -/

/-- A chain all of whose stages hold its source's value goes on holding it, and delivers it. -/
theorem chainShift_of_forall_eq {α : Type} {g : α} {q : List α} (h : ∀ x ∈ q, x = g) :
    (∀ x ∈ (chainShift g q).1, x = g) ∧ (chainShift g q).2 = g := by
  unfold chainShift
  split
  · exact ⟨nofun, rfl⟩
  · next l hlast =>
    refine ⟨fun x hx => ?_, h l (List.mem_of_getLast? hlast)⟩
    rcases List.mem_cons.1 hx with rfl | hx
    · rfl
    · exact h x (List.dropLast_subset q hx)

/-- `ISR.DRE` with nothing to hand over can only disarm itself (42_isr_handlers.md R202). -/
theorem exec_isrDre_of_drained (h : s.isr.txRptr = s.isr.txWview) :
    exec .isrDre s = .next { s with isr := { s.isr with dreie := s.isr.dreie && !s.ser.dre } } := by
  cases hirq : s.irqTx with
  | true =>
    obtain ⟨hdre, hdreie⟩ := Bool.and_eq_true_iff.1 hirq
    rw [exec_isrDre_of_empty hirq (decide_eq_true h.symm), hdre, hdreie]
    rfl
  | false =>
    have hstays : (s.isr.dreie && !s.ser.dre) = s.isr.dreie := by
      cases hd : s.isr.dreie <;> simp_all [State.irqTx]
    rw [exec_isrDre_of_no_trigger hirq, hstays]

/-- What no edge of a settling delay changes while the transmit path is drained. -/
def settleFrame (s : State) : (IsrPhase × BitVec 16 × Bool × Bool × Bool × Bool) × Params × FgRegs ×
    Ptr × Ptr × Bool × Ghost :=
  (ctlRegs s, s.cfg, s.fg, s.isr.txRptr, s.isr.txWview, s.ser.dre, s.ghost)

theorem settleFrame_eq_iff : settleFrame t = settleFrame s ↔
    ctlRegs t = ctlRegs s ∧ t.cfg = s.cfg ∧ t.fg = s.fg ∧ t.isr.txRptr = s.isr.txRptr ∧
    t.isr.txWview = s.isr.txWview ∧ t.ser.dre = s.ser.dre ∧ t.ghost = s.ghost := by
  simp only [settleFrame, Prod.mk.injEq]

/-- With nothing to hand over both handlers answer; DREIE falls if `dre = 1`. -/
theorem handlers_of_drained (h : s.isr.txRptr = s.isr.txWview) :
    ∃ a b, exec .isrRxc s = .next a ∧ exec .isrDre a = .next b ∧
      settleFrame b = settleFrame s ∧ b.isr.settleCnt = s.isr.settleCnt ∧
      b.isr.dreie = (s.isr.dreie && !s.ser.dre) := by
  obtain ⟨a, ha⟩ := exec_answers_of_not_readsEntry (i := .isrRxc) id s
  have hframe : settleFrame a = settleFrame s := exec_keeps settleFrame rfl ha
  have hdreie : a.isr.dreie = s.isr.dreie := exec_keeps (·.isr.dreie) rfl ha
  obtain ⟨-, -, -, hrptr, hview, hdre, -⟩ := settleFrame_eq_iff.1 hframe
  exact ⟨a, _, ha, exec_isrDre_of_drained (hrptr.trans (h.trans hview.symm)), hframe,
    (exec_keeps (·.isr.settleCnt) rfl ha : a.isr.settleCnt = _), by simp only [hdreie, hdre]⟩

/-- With the transmit path drained its chain delivers the view it delivered before, and arms nothing. -/
theorem isrChains_of_drained (h : TxDrained s) (hframe : settleFrame u = settleFrame s) :
    TxDrained (isrChains s.isrSource s u) ∧
    settleFrame (isrChains s.isrSource s u) = settleFrame s ∧
    (isrChains s.isrSource s u).isr.dreie = u.isr.dreie := by
  obtain ⟨hempty, hwptr, hstages⟩ := h
  obtain ⟨hctl, hcfg, hfg, hrptr, -, hdre, hghost⟩ := settleFrame_eq_iff.1 hframe
  have hsource : s.isrSource.txw = gray s.isr.txWview := congrArg gray hwptr
  obtain ⟨hstay, hlast⟩ :=
    chainShift_of_forall_eq fun q hq => (hstages q hq).trans hsource.symm
  have hview : ungray (chainShift s.isrSource.txw s.isr.qTxw).2 = s.isr.txWview := by
    rw [hlast, hsource, ungray_gray]
  refine ⟨⟨?_, ?_, fun q hq => ?_⟩,
    settleFrame_eq_iff.2 ⟨hctl, hcfg, hfg, hrptr, hview, hdre, hghost⟩, ?_⟩
  · exact hrptr.trans (hempty.trans hview.symm)
  · exact (congrArg FgRegs.txWptr hfg).trans (hwptr.trans hview.symm)
  · exact (hstay q hq).trans (hsource.trans (congrArg gray hview.symm))
  · simp [isrChains, hview]

/-- An edge with the transmit path drained answers and leaves to CTL a state still drained. -/
theorem clockIsr_of_drained (m : Masks) (hl : s.cfg.level = .register) (h : TxDrained s) :
    ∃ u, stepEvent (.clock .isr m) s = .next (ctlOnEdge s u) ∧ TxDrained u ∧
      settleFrame u = settleFrame s ∧ u.isr.settleCnt = s.isr.settleCnt ∧
      u.isr.dreie = (s.isr.dreie && !s.ser.dre) := by
  obtain ⟨a, b, ha, hb, hframe, hcnt, hdreie⟩ := handlers_of_drained h.1
  obtain ⟨hdrained, hkept, harm⟩ := isrChains_of_drained h hframe
  refine ⟨isrChains s.isrSource s b, ?_, hdrained, hkept, hcnt, harm.trans hdreie⟩
  rw [stepEvent_clock_isr m hl, isrEdge, ha]
  simp only [andThen, hb]

/-! ### The edges of the delay, counted -/

/-- `t` is `k` edges into the settling delay that `s` is in. -/
structure SettledFor (s : State) (k : Nat) (t : State) : Prop where
  settleCnt : t.isr.settleCnt.toNat = s.isr.settleCnt.toNat - k
  dreie : t.isr.dreie = (s.isr.dreie && (decide (k = 0) || !s.ser.dre))
  frame : settleFrame t = settleFrame s
  drained : TxDrained t

theorem SettledFor.start (h : TxDrained s) : SettledFor s 0 s where
  settleCnt := rfl
  dreie := by simp
  frame := rfl
  drained := h

/-- `k + 1` edges are `k` edges and then one. -/
theorem isrEdges_succ {m : Masks} {k : Nat} (h : isrEdges m k s = .next t) :
    isrEdges m (k + 1) s = stepEvent (.clock .isr m) t := by
  induction k generalizing s with
  | zero =>
    obtain rfl := next_inj.1 h
    simp only [isrEdges]
    cases stepEvent (.clock .isr m) s <;> rfl
  | succ k ih =>
    obtain ⟨a, ha, hrest⟩ := andThen_next.1 h
    rw [isrEdges, ha]
    exact ih hrest

/-- Before the counter is 0, one more edge counts one more. -/
theorem SettledFor.succ {k : Nat} (h : SettledFor s k t) (m : Masks)
    (hl : s.cfg.level = .register) (hp : s.isr.phase = .settle) (hk : k < s.isr.settleCnt.toNat) :
    ∃ u, stepEvent (.clock .isr m) t = .next u ∧ SettledFor s (k + 1) u := by
  obtain ⟨hctl, hcfg, -, -, -, hdre, -⟩ := settleFrame_eq_iff.1 h.frame
  have hphase : t.isr.phase = .settle := (ctlRegs_eq_iff.1 hctl).1.trans hp
  have hcnt := h.settleCnt
  have hne : t.isr.settleCnt ≠ 0 := fun hzero => by simp [hzero] at hcnt; omega
  obtain ⟨u, hstep, hdrained, hframe, hucnt, hdreie⟩ := clockIsr_of_drained m (hcfg ▸ hl) h.drained
  refine ⟨u.settleTick, hstep.trans (by rw [ctlOnEdge_of_counting hphase hne]), ?_, ?_,
    hframe.trans h.frame, hdrained⟩
  · show (u.isr.settleCnt - 1).toNat = _
    rw [hucnt]
    bv_omega
  · show u.isr.dreie = _
    rw [hdreie, h.dreie, hdre]
    cases s.isr.dreie <;> cases s.ser.dre <;> simp

theorem settledFor_of_le {k : Nat} (m : Masks) (hl : s.cfg.level = .register)
    (hp : s.isr.phase = .settle) (h : TxDrained s) (hk : k ≤ s.isr.settleCnt.toNat) :
    ∃ t, isrEdges m k s = .next t ∧ SettledFor s k t := by
  induction k with
  | zero => exact ⟨s, rfl, .start h⟩
  | succ k ih =>
    obtain ⟨t, hrun, ht⟩ := ih (by omega)
    obtain ⟨u, hstep, hu⟩ := ht.succ m hl hp hk
    exact ⟨u, (isrEdges_succ hrun).trans hstep, hu⟩

/-- Once the counter is 0, one more edge disables the line. -/
theorem SettledFor.disable (h : SettledFor s s.isr.settleCnt.toNat t) (m : Masks)
    (hl : s.cfg.level = .register) (hp : s.isr.phase = .settle) :
    ∃ u, stepEvent (.clock .isr m) t = .next u.disableIsr ∧ u.isr.settleCnt = 0 ∧
      settleFrame u = settleFrame s := by
  obtain ⟨hctl, hcfg, -⟩ := settleFrame_eq_iff.1 h.frame
  have hphase : t.isr.phase = .settle := (ctlRegs_eq_iff.1 hctl).1.trans hp
  have hzero : t.isr.settleCnt = 0 :=
    BitVec.eq_of_toNat_eq (h.settleCnt.trans (Nat.sub_self _))
  obtain ⟨u, hstep, -, hframe, hcnt, -⟩ := clockIsr_of_drained m (hcfg ▸ hl) h.drained
  exact ⟨u, hstep.trans (by rw [ctlOnEdge_of_expired hphase hzero]), hcnt.trans hzero,
    hframe.trans h.frame⟩

/-- Settles O26: one edge is a tick or the disable by the counter before it; with the transmit path drained
an induction on the edges counts the ticks, and the edge after the last of them disables. -/
theorem settlingDelayTakesItsEdges : Obligations.SettlingDelayTakesItsEdges := by
  refine ⟨fun s m t hl hp he => ?_, ?_⟩
  · rw [stepEvent_clock_isr m hl] at he
    obtain ⟨u, hctl, hcnt, rfl⟩ := isrEdge_ctl he
    obtain ⟨hphase, hbaud, hrxen, htxen, hrxcie, hack⟩ := ctlRegs_eq_iff.1 hctl
    by_cases hc : s.isr.settleCnt = 0
    · rw [ctlOnEdge_of_expired hp hc]
      exact ⟨hbaud, (absurd hc ·), fun _ => ⟨hcnt.trans hc, rfl, rfl, rfl, rfl, rfl, rfl, rfl⟩⟩
    · rw [ctlOnEdge_of_counting hp hc]
      exact ⟨hbaud, fun _ => ⟨congrArg (· - 1) hcnt, hphase.trans hp, hrxen, htxen, hrxcie, hack⟩,
        (absurd · hc)⟩
  · rintro s m _ hl hp rfl hd
    refine ⟨fun k hk => ?_, ?_⟩
    · obtain ⟨t, hrun, ht⟩ := settledFor_of_le m hl hp hd hk
      obtain ⟨hctl, -, hfg, hrptr, hview, hdre, hghost⟩ := settleFrame_eq_iff.1 ht.frame
      obtain ⟨hphase, hbaud, hrxen, htxen, hrxcie, hack⟩ := ctlRegs_eq_iff.1 hctl
      exact ⟨t, hrun, ht.settleCnt, hphase.trans hp, hrxen, htxen, hrxcie, hack, ht.dreie, hfg, hrptr,
        hview, hbaud, hdre, hghost⟩
    · obtain ⟨t, hrun, ht⟩ := settledFor_of_le m hl hp hd le_rfl
      obtain ⟨u, hstep, hcnt, hframe⟩ := ht.disable m hl hp
      obtain ⟨hctl, -, hfg, hrptr, hview, hdre, hghost⟩ := settleFrame_eq_iff.1 hframe
      obtain ⟨-, hbaud, -⟩ := ctlRegs_eq_iff.1 hctl
      exact ⟨u.disableIsr, (isrEdges_succ hrun).trans hstep, hcnt, rfl, rfl, rfl, rfl, rfl, rfl, rfl,
        hfg, hrptr, hview, hbaud, hdre, hghost⟩

end Sys2Proof.Machine
end

section
/-! PROOFS: under the fairness of 43_cdc_sync.md R230 every OPEN in progress completes (41_fg_commands.md
R172, R181). An OPEN goes through five stages; from each stage every step but a reset stays or goes on to
the next, and fairness takes the step that goes on. -/

namespace Sys2Proof.Safety

open Sys2Proof.Machine

variable {s t : State} {e : Event}

/-! ### What a step does to a line in OPEN -/

/-- No step of OPEN or CTL: of the handshake's registers at most the views of the two levels move, each to
its level (43_cdc_sync.md R226, R227). -/
structure OnlyLevelsCross (s t : State) : Prop where
  fgPhase : t.fg.phase = s.fg.phase
  isrPhase : t.isr.phase = s.isr.phase
  enReqView : t.isr.enReqView = s.isr.enReqView ∨ t.isr.enReqView = s.fg.enReq
  enAckView : t.fg.enAckView = s.fg.enAckView ∨ t.fg.enAckView = s.isr.enAck

/-- The handshake's registers of which a step of OPEN or CTL, or a level's crossing, is the only writer. -/
def handshakeView (s : State) : FgPhase × IsrPhase × Bool × Bool :=
  (s.fg.phase, s.isr.phase, s.isr.enReqView, s.fg.enAckView)

theorem onlyLevelsCross_of_handshakeView (h : handshakeView t = handshakeView s) :
    OnlyLevelsCross s t := by
  simp only [handshakeView, Prod.mk.injEq] at h
  obtain ⟨hfg, hisr, hreqv, hackv⟩ := h
  exact ⟨hfg, hisr, .inl hreqv, .inl hackv⟩

theorem fgStep_of_opening_cases (ho : Opening s) (he : fgStep s = .next t) :
    (s.fg.phase = .openInit ∧ t = s.openRequest) ∨
    (s.fg.phase = .openWait ∧ s.fg.enAckView = true ∧ t = s.openFinish) ∨
    (s.fg.phase = .openWait ∧ s.fg.enAckView = false ∧ t = s.fgHeld) := by
  rw [fgStep_of_opening ho] at he
  rcases ho with hp | hp
  · exact .inl ⟨hp, next_inj.1 (he.symm.trans (exec_openLine_of_openInit hp))⟩
  · cases ha : s.fg.enAckView with
    | true =>
      exact .inr (.inl ⟨hp, rfl, next_inj.1 (he.symm.trans (exec_openLine_of_acknowledged hp ha))⟩)
    | false =>
      exact .inr (.inr ⟨hp, rfl, next_inj.1 (he.symm.trans (exec_openLine_of_unacknowledged hp ha))⟩)

/-- While OPEN is in progress CTL can only enable. -/
theorem Inv.ctlStep_of_opening (h : Inv s) (ho : Opening s)
    (he : exec (ctlInstr s.isr.phase) s = .next t) :
    (s.isr.phase = .disabled ∧ s.isr.enReqView = true ∧ t = s.enableIsr) ∨
    (¬CtlEnabled s ∧ t = s) := by
  have hphase : s.isr.phase = .disabled ∨ s.isr.phase = .enabled ∧ s.isr.enReqView = true := by
    rcases ho with hp | hp
    · exact .inl (lineClosed_of_openInit h.handshake hp).isrPhase
    · have hreq := lineRequested_of_openWait h.handshake hp
      exact hreq.isrPhase.imp_right fun hip => ⟨hip, hreq.enReqView hip⟩
  rcases hphase with hip | ⟨hip, hreqv⟩ <;> rw [hip] at he
  · rcases execCtlEnable_next he with hen | ⟨hno, rfl⟩
    · exact .inl hen
    · exact .inr ⟨by simpa [CtlEnabled, hip] using hno, rfl⟩
  · rw [ctlInstr, exec_ctlClose1_of_forbidden (.inr hreqv)] at he
    exact .inr ⟨by simp [CtlEnabled, hip, hreqv], (next_inj.1 he).symm⟩

/-- A step of neither FG nor CTL leaves both sequencers in their phases (10_state.md R44). -/
theorem Inv.onlyLevelsCross_of_other (h : Inv s) (hfg : e ≠ .fg) (hctl : e ≠ .ctl)
    (hreset : e ≠ .reset) (he : stepEvent e s = .next t) : OnlyLevelsCross s t := by
  have hkeeps {i : Instr} (hi : ∀ s t, handshakeView (State.writtenBy i s t) = handshakeView s)
      (hexec : exec i s = .next t) : OnlyLevelsCross s t :=
    onlyLevelsCross_of_handshakeView (exec_keeps handshakeView (hi s t) hexec)
  cases e with
  | fg => exact absurd rfl hfg
  | ctl => exact absurd rfl hctl
  | reset => exact absurd rfl hreset
  | host w =>
    obtain ⟨_, hhost⟩ := hostPresent_cases w s
    exact next_inj.1 he ▸ hhost ▸ onlyLevelsCross_of_handshakeView rfl
  | hostSeq bs => exact hkeeps (i := .sendseq bs) (fun _ _ => rfl) he
  | rxArrive d x => exact hkeeps (i := .envRxArrive d x) (fun _ _ => rfl) he
  | txReady => exact hkeeps (i := .envTxReady) (fun _ _ => rfl) he
  | clock k m =>
    rcases atLevel_next he with ⟨hl, -⟩ | rfl
    · simp [h.level] at hl
    · exact onlyLevelsCross_of_handshakeView rfl
  | handler hd =>
    rw [stepEvent, atLevel_of_eq h.level, handlerStep_eq_exec] at he
    cases hd <;> exact hkeeps (fun _ _ => rfl) he
  | sync c x =>
    rw [stepEvent, atLevel_of_eq h.level] at he
    cases c with
    | txw | txr | rxw | rxr => exact hkeeps (fun _ _ => rfl) he
    | req => exact next_inj.1 he ▸ ⟨rfl, rfl, .inr rfl, .inl rfl⟩
    | ack => exact next_inj.1 he ▸ ⟨rfl, rfl, .inl rfl, .inr rfl⟩

/-- Every step from an OPEN in progress but a reset: OPEN's own steps, CTL's enable, or none of them and
then neither FG nor CTL had its turn with a step to take. -/
theorem Inv.stepEvent_of_opening (h : Inv s) (ho : Opening s) (hreset : e ≠ .reset)
    (he : stepEvent e s = .next t) :
    (s.fg.phase = .openInit ∧ t = s.openRequest) ∨
    (s.fg.phase = .openWait ∧ s.fg.enAckView = true ∧ t = s.openFinish) ∨
    (s.isr.phase = .disabled ∧ s.isr.enReqView = true ∧ t = s.enableIsr) ∨
    (OnlyLevelsCross s t ∧ (e = .fg → ¬FgEnabled s) ∧ (e = .ctl → ¬CtlEnabled s)) := by
  by_cases hfg : e = .fg
  · subst hfg
    rcases fgStep_of_opening_cases ho ((atLevel_of_eq h.level).symm.trans he) with
      hreq | hfin | ⟨hp, ha, rfl⟩
    · exact .inl hreq
    · exact .inr (.inl hfin)
    · exact .inr (.inr (.inr ⟨onlyLevelsCross_of_handshakeView rfl,
        fun _ => by simp [FgEnabled, hp, ha], nofun⟩))
  by_cases hctl : e = .ctl
  · subst hctl
    rcases h.ctlStep_of_opening ho ((atLevel_of_eq h.level).symm.trans he) with hen | ⟨hno, rfl⟩
    · exact .inr (.inr (.inl hen))
    · exact .inr (.inr (.inr ⟨onlyLevelsCross_of_handshakeView rfl, nofun, fun _ => hno⟩))
  · exact .inr (.inr (.inr ⟨h.onlyLevelsCross_of_other hfg hctl hreset he, (absurd · hfg),
      (absurd · hctl)⟩))

/-! ### The five stages of an OPEN -/

/-- OPEN has requested; CTL does not see it yet. -/
abbrev OpenRequested (s : State) : Prop :=
  s.fg.phase = .openWait ∧ s.isr.phase = .disabled ∧ s.isr.enReqView = false

/-- CTL sees the request. -/
abbrev OpenSeen (s : State) : Prop :=
  s.fg.phase = .openWait ∧ s.isr.phase = .disabled ∧ s.isr.enReqView = true

/-- CTL has enabled the line; the foreground does not see its acknowledgement yet. -/
abbrev OpenEnabled (s : State) : Prop :=
  s.fg.phase = .openWait ∧ s.isr.phase = .enabled ∧ s.fg.enAckView = false

/-- The foreground sees the acknowledgement. -/
abbrev OpenAcknowledged (s : State) : Prop :=
  s.fg.phase = .openWait ∧ s.isr.phase = .enabled ∧ s.fg.enAckView = true

/-- OPEN has completed: the port idle, the line Open, the response delivered (41_fg_commands.md R172). -/
abbrev OpenDone (s : State) : Prop :=
  s.fg.phase = .idle ∧ s.fg.lineOpen = true ∧ s.fg.rsp = 0x0000#16 ∧ s.fg.rspValid = true

theorem Inv.opening_stage (h : Inv s) (ho : Opening s) :
    s.fg.phase = .openInit ∨ OpenRequested s ∨ OpenSeen s ∨ OpenEnabled s ∨ OpenAcknowledged s := by
  rcases ho with hp | hp
  · exact .inl hp
  · rcases (lineRequested_of_openWait h.handshake hp).isrPhase with hip | hip
    · cases hreqv : s.isr.enReqView with
      | false => exact .inr (.inl ⟨hp, hip, hreqv⟩)
      | true => exact .inr (.inr (.inl ⟨hp, hip, hreqv⟩))
    · cases hackv : s.fg.enAckView with
      | false => exact .inr (.inr (.inr (.inl ⟨hp, hip, hackv⟩)))
      | true => exact .inr (.inr (.inr (.inr ⟨hp, hip, hackv⟩)))

theorem Inv.step_of_openInit (h : Inv s) (hp : s.fg.phase = .openInit) (hreset : e ≠ .reset)
    (he : stepEvent e s = .next t) : (t.fg.phase = .openInit ∧ e ≠ .fg) ∨ OpenRequested t := by
  have hclosed := lineClosed_of_openInit h.handshake hp
  rcases h.stepEvent_of_opening (.inl hp) hreset he with
    ⟨-, rfl⟩ | ⟨hwait, -, -⟩ | ⟨-, hreqv, -⟩ | ⟨hcross, hfg, -⟩
  · exact .inr ⟨rfl, hclosed.isrPhase, hclosed.enReqView⟩
  · simp [hp] at hwait
  · simp [hclosed.enReqView] at hreqv
  · exact .inl ⟨hcross.fgPhase.trans hp, fun hturn => hfg hturn (by simp [FgEnabled, hp])⟩

theorem Inv.step_of_openRequested (h : Inv s) (hs : OpenRequested s) (hreset : e ≠ .reset)
    (he : stepEvent e s = .next t) : OpenRequested t ∨ OpenSeen t := by
  obtain ⟨hp, hip, hreqv⟩ := hs
  have hreq := lineRequested_of_openWait h.handshake hp
  rcases h.stepEvent_of_opening (.inr hp) hreset he with
    ⟨hinit, -⟩ | ⟨-, hackv, -⟩ | ⟨-, hseen, -⟩ | ⟨hcross, -, -⟩
  · simp [hp] at hinit
  · simp [hreq.enAckView hip] at hackv
  · simp [hreqv] at hseen
  · have hp' := hcross.fgPhase.trans hp
    have hip' := hcross.isrPhase.trans hip
    exact hcross.enReqView.imp (fun hv => ⟨hp', hip', hv.trans hreqv⟩)
      fun hv => ⟨hp', hip', hv.trans hreq.enReq⟩

theorem Inv.step_of_openSeen (h : Inv s) (hs : OpenSeen s) (hreset : e ≠ .reset)
    (he : stepEvent e s = .next t) : (OpenSeen t ∧ e ≠ .ctl) ∨ OpenEnabled t := by
  obtain ⟨hp, hip, hreqv⟩ := hs
  have hreq := lineRequested_of_openWait h.handshake hp
  rcases h.stepEvent_of_opening (.inr hp) hreset he with
    ⟨hinit, -⟩ | ⟨-, hackv, -⟩ | ⟨-, -, rfl⟩ | ⟨hcross, -, hctl⟩
  · simp [hp] at hinit
  · simp [hreq.enAckView hip] at hackv
  · exact .inr ⟨hp, rfl, hreq.enAckView hip⟩
  · have hreqv' : t.isr.enReqView = true :=
      hcross.enReqView.elim (·.trans hreqv) (·.trans hreq.enReq)
    exact .inl ⟨⟨hcross.fgPhase.trans hp, hcross.isrPhase.trans hip, hreqv'⟩,
      fun hturn => hctl hturn (by simp [CtlEnabled, hip, hreqv])⟩

theorem Inv.step_of_openEnabled (h : Inv s) (hs : OpenEnabled s) (hreset : e ≠ .reset)
    (he : stepEvent e s = .next t) : OpenEnabled t ∨ OpenAcknowledged t := by
  obtain ⟨hp, hip, hackv⟩ := hs
  have hreq := lineRequested_of_openWait h.handshake hp
  have hack : s.isr.enAck = true := by simp [hreq.enAck, hip]
  rcases h.stepEvent_of_opening (.inr hp) hreset he with
    ⟨hinit, -⟩ | ⟨-, hseen, -⟩ | ⟨hoff, -, -⟩ | ⟨hcross, -, -⟩
  · simp [hp] at hinit
  · simp [hackv] at hseen
  · simp [hip] at hoff
  · have hp' := hcross.fgPhase.trans hp
    have hip' := hcross.isrPhase.trans hip
    exact hcross.enAckView.imp (fun hv => ⟨hp', hip', hv.trans hackv⟩)
      fun hv => ⟨hp', hip', hv.trans hack⟩

theorem Inv.step_of_openAcknowledged (h : Inv s) (hs : OpenAcknowledged s) (hreset : e ≠ .reset)
    (he : stepEvent e s = .next t) : (OpenAcknowledged t ∧ e ≠ .fg) ∨ OpenDone t := by
  obtain ⟨hp, hip, hackv⟩ := hs
  have hack : s.isr.enAck = true := by
    simp [(lineRequested_of_openWait h.handshake hp).enAck, hip]
  rcases h.stepEvent_of_opening (.inr hp) hreset he with
    ⟨hinit, -⟩ | ⟨-, -, rfl⟩ | ⟨hoff, -, -⟩ | ⟨hcross, hfg, -⟩
  · simp [hp] at hinit
  · exact .inr ⟨rfl, rfl, rfl, rfl⟩
  · simp [hip] at hoff
  · have hackv' : t.fg.enAckView = true := hcross.enAckView.elim (·.trans hackv) (·.trans hack)
    exact .inl ⟨⟨hcross.fgPhase.trans hp, hcross.isrPhase.trans hip, hackv'⟩,
      fun hturn => hfg hturn (by simp [FgEnabled, hp, hackv])⟩

/-! ### From stage to stage along a fair run -/

variable {r : Run} {n k : Nat} {P Q : State → Prop}

/-- If every step from `P` stays in `P` or reaches `Q`, and fairness rules out that `P` holds for ever
without `Q`, then `Q` is reached. -/
theorem Run.reaches (hP : P (r.states n))
    (hstep : ∀ m, n ≤ m → P (r.states m) → P (r.states (m + 1)) ∨ Q (r.states (m + 1)))
    (hfair : (∀ m, n ≤ m → P (r.states m)) → ∃ m, n ≤ m ∧ Q (r.states m)) :
    ∃ m, n ≤ m ∧ Q (r.states m) := by
  by_contra hnever
  refine hnever (hfair fun m hm => ?_)
  induction m, hm using Nat.le_induction with
  | base => exact hP
  | succ m hm ih => exact (hstep m hm ih).resolve_right fun hQ => hnever ⟨m + 1, by omega, hQ⟩

/-- The same where `Q` is reached by a step under weak fairness. -/
theorem Run.reaches_of_weaklyFair {guard : State → Prop} {event : Event}
    (hfair : r.WeaklyFair guard (· = event)) (hguard : ∀ m, P (r.states m) → guard (r.states m))
    (hP : P (r.states n))
    (hstep : ∀ m, n ≤ m → P (r.states m) →
      (P (r.states (m + 1)) ∧ r.events m ≠ event) ∨ Q (r.states (m + 1))) :
    ∃ m, n ≤ m ∧ Q (r.states m) := by
  refine Run.reaches hP (fun m hm hs => (hstep m hm hs).imp_left And.left) fun hall => ?_
  obtain ⟨m, hm, hturn⟩ := hfair n fun m hm => hguard m (hall m hm)
  exact ⟨m + 1, by omega, (hstep m hm (hall m hm)).resolve_left fun hstays => hstays.2 hturn⟩

/-- The same where `Q` is reached as a view catches up with its original. -/
theorem Run.reaches_of_catchesUp {α : Type} {original view : State → α} {v : α}
    (hfair : r.CatchesUp (fun _ => True) original view)
    (horiginal : ∀ m, n ≤ m → P (r.states m) → original (r.states m) = v)
    (hview : ∀ m, P (r.states m) → view (r.states m) ≠ v) (hP : P (r.states n))
    (hstep : ∀ m, n ≤ m → P (r.states m) → P (r.states (m + 1)) ∨ Q (r.states (m + 1))) :
    ∃ m, n ≤ m ∧ Q (r.states m) := by
  refine Run.reaches hP hstep fun hall => ?_
  obtain ⟨m, hm, hcaught⟩ := hfair n v fun m hm => ⟨trivial, horiginal m hm (hall m hm)⟩
  exact absurd hcaught (hview m (hall m hm))

/-- What is reached from what is reached is reached. -/
theorem Run.reaches_trans (h : ∃ m, n ≤ m ∧ P (r.states m))
    (hnext : ∀ m, n ≤ m → P (r.states m) → ∃ l, m ≤ l ∧ Q (r.states l)) :
    ∃ l, n ≤ l ∧ Q (r.states l) := by
  obtain ⟨m, hm, hP⟩ := h
  obtain ⟨l, hl, hQ⟩ := hnext m hm hP
  exact ⟨l, hm.trans hl, hQ⟩

theorem Run.inv_of_le (h : Inv (r.states n)) {m : Nat} (hm : n ≤ m) : Inv (r.states m) := by
  induction m, hm using Nat.le_induction with
  | base => exact h
  | succ m _ ih => exact stepEvent_keeps_inv ih (r.steps m)

section Stages

variable (hfair : r.Fair) (hinv : Inv (r.states n)) (hreset : ∀ m, n ≤ m → r.events m ≠ .reset)
  (hk : n ≤ k)

include hfair hinv hreset hk

theorem Run.openAcknowledged_completes (hs : OpenAcknowledged (r.states k)) :
    ∃ m, k ≤ m ∧ OpenDone (r.states m) :=
  Run.reaches_of_weaklyFair hfair.fg (fun _ ⟨hp, _, hackv⟩ => by simp [FgEnabled, hp, hackv]) hs
    fun m hm hs => (Run.inv_of_le hinv (hk.trans hm)).step_of_openAcknowledged hs
      (hreset m (hk.trans hm)) (r.steps m)

theorem Run.openEnabled_completes (hs : OpenEnabled (r.states k)) :
    ∃ m, k ≤ m ∧ OpenDone (r.states m) := by
  have hack m (hm : k ≤ m) (hs : OpenEnabled (r.states m)) : (r.states m).isr.enAck = true := by
    have hreq := lineRequested_of_openWait (Run.inv_of_le hinv (hk.trans hm)).handshake hs.1
    simp [hreq.enAck, hs.2.1]
  have hreached : ∃ m, k ≤ m ∧ OpenAcknowledged (r.states m) :=
    Run.reaches_of_catchesUp hfair.ack hack (fun m hs => by simp [hs.2.2]) hs fun m hm hs =>
      (Run.inv_of_le hinv (hk.trans hm)).step_of_openEnabled hs (hreset m (hk.trans hm)) (r.steps m)
  exact Run.reaches_trans hreached fun m hm =>
    Run.openAcknowledged_completes hfair hinv hreset (hk.trans hm)

theorem Run.openSeen_completes (hs : OpenSeen (r.states k)) :
    ∃ m, k ≤ m ∧ OpenDone (r.states m) := by
  have hreached : ∃ m, k ≤ m ∧ OpenEnabled (r.states m) :=
    Run.reaches_of_weaklyFair hfair.ctl (fun _ ⟨_, hip, hreqv⟩ => by simp [CtlEnabled, hip, hreqv]) hs
      fun m hm hs => (Run.inv_of_le hinv (hk.trans hm)).step_of_openSeen hs
        (hreset m (hk.trans hm)) (r.steps m)
  exact Run.reaches_trans hreached fun m hm =>
    Run.openEnabled_completes hfair hinv hreset (hk.trans hm)

theorem Run.openRequested_completes (hs : OpenRequested (r.states k)) :
    ∃ m, k ≤ m ∧ OpenDone (r.states m) := by
  have hreq m (hm : k ≤ m) (hs : OpenRequested (r.states m)) : (r.states m).fg.enReq = true :=
    (lineRequested_of_openWait (Run.inv_of_le hinv (hk.trans hm)).handshake hs.1).enReq
  have hreached : ∃ m, k ≤ m ∧ OpenSeen (r.states m) :=
    Run.reaches_of_catchesUp hfair.req hreq (fun m hs => by simp [hs.2.2]) hs fun m hm hs =>
      (Run.inv_of_le hinv (hk.trans hm)).step_of_openRequested hs (hreset m (hk.trans hm)) (r.steps m)
  exact Run.reaches_trans hreached fun m hm =>
    Run.openSeen_completes hfair hinv hreset (hk.trans hm)

theorem Run.openInit_completes (hs : (r.states k).fg.phase = .openInit) :
    ∃ m, k ≤ m ∧ OpenDone (r.states m) := by
  have hreached : ∃ m, k ≤ m ∧ OpenRequested (r.states m) :=
    Run.reaches_of_weaklyFair (P := (·.fg.phase = .openInit)) hfair.fg
      (fun _ hp => by simp [FgEnabled, hp]) hs fun m hm hs =>
        (Run.inv_of_le hinv (hk.trans hm)).step_of_openInit hs (hreset m (hk.trans hm)) (r.steps m)
  exact Run.reaches_trans hreached fun m hm =>
    Run.openRequested_completes hfair hinv hreset (hk.trans hm)

end Stages

/-- Settles O60: from whichever stage the OPEN is in, fairness leads through the stages after it. -/
theorem fairOpenCompletes : Obligations.FairOpenCompletes := by
  intro r n hfair hinv ho hreset
  rcases hinv.opening_stage ho with hs | hs | hs | hs | hs
  · exact Run.openInit_completes hfair hinv hreset le_rfl hs
  · exact Run.openRequested_completes hfair hinv hreset le_rfl hs
  · exact Run.openSeen_completes hfair hinv hreset le_rfl hs
  · exact Run.openEnabled_completes hfair hinv hreset le_rfl hs
  · exact Run.openAcknowledged_completes hfair hinv hreset le_rfl hs

end Sys2Proof.Safety
end

section
/-! PROOFS: the six crossings at the agent level (43_cdc_sync.md R221 to R228): what each does inside its
window, that no view passes its original, and the eager-sync schedule (R232). -/

namespace Sys2Proof.Machine

open Sys2Proof.Safety

variable {s t : State} {x : Ptr}

/-! ### A crossing inside its window -/

theorem isrCrossingsOn_of_not_disabled (h : s.isr.phase ≠ .disabled) : s.isrCrossingsOn = true :=
  decide_eq_true h

theorem fgCrossingsOn_of_not_opening (h : ¬Opening s) : s.fgCrossingsOn = true := by
  simpa [State.fgCrossingsOn] using h

theorem exec_syncTxw_of_mayAdvance (hon : s.isr.phase ≠ .disabled)
    (h : mayAdvance s.cfg.nTx s.isr.txWview x s.fg.txWptr = true) :
    exec (.syncTxw x) s = .next { s with isr := { s.isr with txWview := x, dreie := true } } :=
  if_pos (Bool.and_eq_true_iff.2 ⟨isrCrossingsOn_of_not_disabled hon, h⟩)

theorem exec_syncRxr_of_mayAdvance (hon : s.isr.phase ≠ .disabled)
    (h : mayAdvance s.cfg.nRx s.isr.rxRview x s.fg.rxRptr = true) :
    exec (.syncRxr x) s = .next { s with isr := { s.isr with rxRview := x } } :=
  if_pos (Bool.and_eq_true_iff.2 ⟨isrCrossingsOn_of_not_disabled hon, h⟩)

theorem exec_syncTxr_of_mayAdvance (hon : ¬Opening s)
    (h : mayAdvance s.cfg.nTx s.fg.txRview x s.isr.txRptr = true) :
    exec (.syncTxr x) s = .next { s with fg := { s.fg with txRview := x } } :=
  if_pos (Bool.and_eq_true_iff.2 ⟨fgCrossingsOn_of_not_opening hon, h⟩)

/-- `SYNC.RXW` reads the tag of the newest entry it makes visible (43_cdc_sync.md R224). -/
theorem exec_syncRxw_of_tag {g : Tag} (hon : ¬Opening s)
    (h : mayAdvance s.cfg.nRx s.fg.rxWview x s.isr.rxWptr = true)
    (hg : Mem.read s.isr.rxTag (idx s.cfg.nRx (ptrPred s.cfg.nRx x)) = some g) :
    exec (.syncRxw x) s =
      .next { s with fg := { s.fg with rxWview := x, rxErrView := g.setWidth 8 } } :=
  (if_pos (Bool.and_eq_true_iff.2 ⟨fgCrossingsOn_of_not_opening hon, h⟩)).trans
    (by rw [newestTag_ok.2 hg])

theorem exec_syncRxw_of_fault {f : Fault} (hon : ¬Opening s)
    (h : mayAdvance s.cfg.nRx s.fg.rxWview x s.isr.rxWptr = true) (hf : s.newestTag x = .error f) :
    exec (.syncRxw x) s = .fault f :=
  (if_pos (Bool.and_eq_true_iff.2 ⟨fgCrossingsOn_of_not_opening hon, h⟩)).trans (by rw [hf])

/-- Settles O28: past its guard each of these crossings is one write. -/
theorem crossingsWithoutSideEffect : Obligations.CrossingsWithoutSideEffect := fun _ _ =>
  ⟨fun hinit hwait hx hne hmoves hle =>
      exec_syncTxr_of_mayAdvance (not_or.2 ⟨hinit, hwait⟩) (mayAdvance_iff.2 ⟨hx, hne, hmoves, hle⟩),
    fun hon hx hne hmoves hle =>
      exec_syncRxr_of_mayAdvance hon (mayAdvance_iff.2 ⟨hx, hne, hmoves, hle⟩),
    rfl, rfl⟩

/-- The index of the newest entry before `x`, as plain arithmetic. -/
theorem idx_ptrPred {n : Nat} (hn : n ≤ 12) (x : Ptr) :
    idx n (ptrPred n x) = (x.toNat + (2 ^ (n + 1) - 1)) % 2 ^ n := by
  have hmod : (x.toNat + (2 ^ (n + 1) - 1)) % 2 ^ (n + 1) < 2 ^ 13 :=
    (Nat.mod_lt _ (Nat.two_pow_pos _)).trans_le (modulus_le hn)
  rw [idx, ptrPred, BitVec.toNat_ofNat, Nat.mod_eq_of_lt hmod,
    Nat.mod_mod_of_dvd _ (Nat.pow_dvd_pow 2 (Nat.le_succ n))]

/-- Settles O29: past its guard each of these crossings is one write with its side effect. -/
theorem writePointerCrossings : Obligations.WritePointerCrossings := by
  refine fun s x => ⟨fun hon hx hne hmoves hle => ?_,
    fun g hinit hwait hx hne hmoves hle hg hn => ?_⟩
  · exact exec_syncTxw_of_mayAdvance hon (mayAdvance_iff.2 ⟨hx, hne, hmoves, hle⟩)
  · exact exec_syncRxw_of_tag (not_or.2 ⟨hinit, hwait⟩) (mayAdvance_iff.2 ⟨hx, hne, hmoves, hle⟩)
      (idx_ptrPred hn x ▸ hg)

/-! ### No view passes its original -/

/-- From the old view on one meets the value advanced to, then the original. -/
theorem occ_of_mayAdvance {n : Nat} {v p : Ptr} (hn : n ≤ 12) (hv : v.toNat < 2 ^ (n + 1))
    (hp : p.toNat < 2 ^ (n + 1)) (h : mayAdvance n v x p = true) :
    occ n x v + occ n p x = occ n p v := by
  obtain ⟨hx, -, -, hle⟩ := mayAdvance_iff.1 h
  exact occ_add hn hv hx hp hle

theorem occ_of_no_move (n : Nat) (v p : Ptr) : occ n v v + occ n p v = occ n p v := by
  rw [occ_self, Nat.zero_add]

/-- Settles O30: a view that moves may advance, and one that stays is at distance 0 from itself. -/
theorem viewsNeverPassTheirOriginals : Obligations.ViewsNeverPassTheirOriginals := by
  refine fun s t x h => ⟨fun he hv => ?_, fun he hv => ?_, fun he hv => ?_, fun he hv => ?_⟩
  · rcases execSyncTxw_next he with ⟨-, hadv, rfl⟩ | ⟨-, rfl⟩
    · exact occ_of_mayAdvance h.nTx_le hv h.txWptr hadv
    · exact occ_of_no_move _ _ _
  · rcases execSyncTxr_next he with ⟨-, hadv, rfl⟩ | ⟨-, rfl⟩
    · exact occ_of_mayAdvance h.nTx_le hv h.txRptr hadv
    · exact occ_of_no_move _ _ _
  · rcases execSyncRxw_next he with ⟨-, hadv, _, -, rfl⟩ | ⟨-, rfl⟩
    · exact occ_of_mayAdvance h.nRx_le hv h.rxWptr hadv
    · exact occ_of_no_move _ _ _
  · rcases execSyncRxr_next he with ⟨-, hadv, rfl⟩ | ⟨-, rfl⟩
    · exact occ_of_mayAdvance h.nRx_le hv h.rxRptr hadv
    · exact occ_of_no_move _ _ _

/-! ### The eager-sync schedule -/

theorem andThen_of_next {o : Host.Outcome State Fault Refusal}
    {k : State → Host.Outcome State Fault Refusal} (h : o = .next t) : andThen o k = k t := by
  rw [h]
  rfl

/-- A view that is not at its original may advance the whole way. -/
theorem mayAdvance_original {n : Nat} {v p : Ptr} (hp : p.toNat < 2 ^ (n + 1)) (hne : v ≠ p) :
    mayAdvance n v p p = true :=
  mayAdvance_iff.2 ⟨hp, hne, hne.symm, le_rfl⟩

theorem exec_syncTxw_original (h : Shape s) (hon : s.isr.phase ≠ .disabled) :
    exec (.syncTxw s.fg.txWptr) s = .next { s with isr := { s.isr with
      txWview := s.fg.txWptr, dreie := if s.isr.txWview = s.fg.txWptr then s.isr.dreie else true } } := by
  by_cases heq : s.isr.txWview = s.fg.txWptr
  · rw [exec_syncTxw_of_forbidden (.inr (.inl heq)), ← heq]
    simp
  · rw [exec_syncTxw_of_mayAdvance hon (mayAdvance_original h.txWptr heq)]
    simp [heq]

theorem exec_syncTxr_original (h : Shape s) (hon : ¬Opening s) :
    exec (.syncTxr s.isr.txRptr) s =
      .next { s with fg := { s.fg with txRview := s.isr.txRptr } } := by
  by_cases heq : s.fg.txRview = s.isr.txRptr
  · rw [exec_syncTxr_of_forbidden (.inr (.inl heq)), ← heq]
  · exact exec_syncTxr_of_mayAdvance hon (mayAdvance_original h.txRptr heq)

theorem exec_syncRxr_original (h : Shape s) (hon : s.isr.phase ≠ .disabled) :
    exec (.syncRxr s.fg.rxRptr) s =
      .next { s with isr := { s.isr with rxRview := s.fg.rxRptr } } := by
  by_cases heq : s.isr.rxRview = s.fg.rxRptr
  · rw [exec_syncRxr_of_forbidden (.inr (.inl heq)), ← heq]
  · exact exec_syncRxr_of_mayAdvance hon (mayAdvance_original h.rxRptr heq)

/-- Under the invariant the newest received entry has a tag to refresh `rx_err_view` from. -/
theorem exec_syncRxw_original (h : Inv s) (hon : ¬Opening s) :
    ∃ e, exec (.syncRxw s.isr.rxWptr) s =
        .next { s with fg := { s.fg with rxWview := s.isr.rxWptr, rxErrView := e } } ∧
      (s.fg.rxWview = s.isr.rxWptr → e = s.fg.rxErrView) ∧
      (s.fg.rxWview ≠ s.isr.rxWptr → some e = (Mem.read s.isr.rxTag
        (idx s.cfg.nRx (ptrPred s.cfg.nRx s.isr.rxWptr))).map (·.setWidth 8)) := by
  by_cases heq : s.fg.rxWview = s.isr.rxWptr
  · refine ⟨s.fg.rxErrView, ?_, fun _ => rfl, (absurd heq ·)⟩
    rw [exec_syncRxw_of_forbidden (.inr (.inl heq)), ← heq]
  · have hadv := mayAdvance_original h.shape.rxWptr heq
    obtain ⟨g, hg⟩ := Option.isSome_iff_exists.1
      (h.rx_newest_written (fgCrossingsOn_of_not_opening hon) hadv)
    exact ⟨g.setWidth 8, exec_syncRxw_of_tag hon hadv hg, (absurd · heq), fun _ => by rw [hg]; rfl⟩

theorem occOf_of_settled (h : Settled s) (b : Buf) (d : Domain) : s.occOf b d = s.trueCount b := by
  obtain ⟨htxw, htxr, hrxw, hrxr, -⟩ := h
  cases b <;> cases d <;>
    simp only [State.occOf, State.trueCount, State.bufN, State.wOf, State.rOf, htxw, htxr, hrxw, hrxr]

/-- Settles O51: each crossing of the pass brings its view to its original and leaves the other views and
all originals alone. -/
theorem eagerSyncSettles : Obligations.EagerSyncSettles := by
  refine ⟨fun s h => occOf_of_settled h, fun s h ho hon => ?_⟩
  have htxw := exec_syncTxw_original h.shape hon
  have hinvTxw := execSyncTxw_keeps_inv h htxw
  have htxr := exec_syncTxr_original hinvTxw.shape ho
  have hinvTxr := execSyncTxr_keeps_inv hinvTxw htxr
  obtain ⟨e, hrxw, hstays, htag⟩ := exec_syncRxw_original hinvTxr ho
  have hinvRxw := execSyncRxw_keeps_inv hinvTxr hrxw
  have hrxr := exec_syncRxr_original hinvRxw.shape hon
  exact ⟨e, _, (andThen_of_next htxw).trans <| (andThen_of_next htxr).trans <|
    (andThen_of_next hrxw).trans <| (andThen_of_next hrxr).trans rfl, fun hne => if_neg hne,
    fun heq => if_pos heq, hstays, htag⟩

end Sys2Proof.Machine
end

section
/-! PROOFS: the synchroniser chains (43_cdc_sync.md R220, R231) and the edge of both clocks inside one
sampling window (R229). A chain with its last stage is a queue: an edge puts the sample in front and drops
the stage delivered before. On an edge of both clocks the interrupt domain's edge reads, of what the
foreground's edge writes, bundled data alone. -/

namespace Sys2Proof.Machine

open Sys2Proof.Safety

/-! ### A chain delivers in order -/

section Chain

variable {α : Type} {g v : α} {q : List α}

theorem chainShift_concat (g x : α) (q : List α) : chainShift g (q ++ [x]) = (g :: q, x) := by
  simp [chainShift]

theorem chainShift_replicate (g : α) (n : Nat) :
    chainShift g (List.replicate n g) = (List.replicate n g, g) := by
  cases n with
  | zero => rfl
  | succ n => rw [List.replicate_succ', chainShift_concat, ← List.replicate_succ']; rfl

/-- The last of several edges is an edge on the stages the others leave. -/
theorem chainRun_succ (g : α) (k : Nat) (c : List α × α) :
    chainRun g (k + 1) c = chainShift g (chainRun g k c).1 := by
  induction k generalizing c with
  | zero => rfl
  | succ k ih => exact ih (chainShift g c.1)

theorem take_length_sub {k : Nat} (hk : k < q.length) :
    q.take (q.length - k) = q.take (q.length - (k + 1)) ++ [q[q.length - 1 - k]] := by
  rw [show q.length - (k + 1) = q.length - 1 - k by omega, ← List.take_succ_eq_append_getElem]
  congr 1
  omega

/-- After `k` edges the `k` samples stand in front of the stages not delivered yet. -/
theorem chainRun_stages (g v : α) (q : List α) {k : Nat} (hk : k ≤ q.length) :
    (chainRun g k (q, v)).1 = List.replicate k g ++ q.take (q.length - k) := by
  induction k with
  | zero => simp [chainRun]
  | succ k ih =>
    rw [chainRun_succ, ih (by omega), take_length_sub hk, ← List.append_assoc, chainShift_concat]
    rfl

theorem chainRun_last (g v : α) {k : Nat} (hk : k < q.length) :
    (chainRun g (k + 1) (q, v)).2 = q[q.length - 1 - k] := by
  rw [chainRun_succ, chainRun_stages g v q hk.le, take_length_sub hk, ← List.append_assoc,
    chainShift_concat]

theorem chainRun_all (g v : α) (q : List α) :
    chainRun g (q.length + 1) (q, v) = (List.replicate q.length g, g) := by
  rw [chainRun_succ, chainRun_stages g v q le_rfl, Nat.sub_self, List.take_zero, List.append_nil,
    chainShift_replicate]

end Chain

/-! ### A sample is bit by bit old or new -/

theorem sampleBits_getLsbD (m old new : Ptr) (k : Nat) :
    (sampleBits m old new).getLsbD k = if m.getLsbD k then old.getLsbD k else new.getLsbD k := by
  by_cases hk : k < 13
  · rw [sampleBits, BitVec.getLsbD_or, BitVec.getLsbD_and, BitVec.getLsbD_and, BitVec.getLsbD_not]
    cases m.getLsbD k <;> simp [hk]
  · simp [BitVec.getLsbD_of_ge _ _ (Nat.le_of_not_lt hk)]

/-- A source that changes in one bit is caught at its old or its new value, as the draw has that bit. -/
theorem sampleBits_of_one_bit (m old : Ptr) (k : Nat) :
    sampleBits m old (old ^^^ (1#13 <<< k)) =
      if m.getLsbD k then old else old ^^^ (1#13 <<< k) := by
  apply BitVec.eq_of_getLsbD_eq
  intro i hi
  rw [sampleBits_getLsbD]
  by_cases hik : i = k
  · subst hik
    split <;> rfl
  · have hbit : (old ^^^ (1#13 <<< k)).getLsbD i = old.getLsbD i := by
      have hshift : (1#13 <<< k).getLsbD i = false := by
        rw [BitVec.getLsbD_shiftLeft, BitVec.getLsbD_one]
        by_cases hlt : i < k
        · simp [hlt]
        · simp [show i - k ≠ 0 by omega]
      rw [BitVec.getLsbD_xor, hshift, Bool.xor_false]
    split <;> split <;> simp only [hbit]

/-! ### The request's chain -/

variable {s t a u old : State} {m : Masks}

/-- CTL's step on an edge leaves the request's chain and the foreground as they are (42_isr_handlers.md
R203 to R206). -/
theorem ctlOnEdge_request (old s : State) : (ctlOnEdge old s).isr.qReq = s.isr.qReq ∧
    (ctlOnEdge old s).isr.enReqView = s.isr.enReqView ∧ (ctlOnEdge old s).fg = s.fg := by
  rcases ctlOnEdge_cases old s with ⟨-, -, h⟩ | ⟨-, -, h⟩ | ⟨-, -, h⟩ | ⟨-, -, h⟩ | ⟨-, -, h⟩ |
    ⟨-, -, h⟩ | ⟨-, -, h⟩ | ⟨-, -, h⟩ <;> rw [h] <;> exact ⟨rfl, rfl, rfl⟩

theorem isrEdge_request {g : IsrSample} (h : isrEdge g s = .next t) :
    (t.isr.qReq, t.isr.enReqView) = chainShift g.req s.isr.qReq ∧ t.fg = s.fg := by
  obtain ⟨a, b, ha, hb, rfl⟩ := isrEdge_next h
  obtain ⟨hchain, hview, hfg⟩ := ctlOnEdge_request s (isrChains g s b)
  rw [hchain, hview, hfg]
  exact ⟨rfl, (exec_keeps (·.fg) rfl hb).trans (exec_keeps (·.fg) rfl ha)⟩

/-- Edges of `clk_isr` alone are edges of the request's chain with `en_req` held. -/
theorem isrEdges_request {k : Nat} (hl : s.cfg.level = .register)
    (h : isrEdges m k s = .next t) :
    (t.isr.qReq, t.isr.enReqView) = chainRun s.fg.enReq k (s.isr.qReq, s.isr.enReqView) := by
  induction k generalizing s with
  | zero => rw [next_inj.1 h]; rfl
  | succ k ih =>
    obtain ⟨a, hedge, hrest⟩ := andThen_next.1 h
    rw [stepEvent_clock_isr m hl] at hedge
    obtain ⟨hchain, hfg⟩ := isrEdge_request hedge
    rw [ih ((isrEdge_sameLine hedge).1 ▸ hl) hrest, hfg, hchain]
    rfl

theorem isrEdges_deliver_request (h : Shape s) (hl : s.cfg.level = .register)
    (hrun : isrEdges m s.cfg.stages s = .next t) :
    t.isr.enReqView = s.fg.enReq ∧ t.isr.qReq = List.replicate (s.cfg.stages - 1) s.fg.enReq := by
  have hstages : 2 ≤ s.cfg.stages := by
    have hparams := h.params
    simp only [Params.wellFormed, Bool.and_eq_true, decide_eq_true_eq] at hparams
    exact hparams.2
  have hchain := isrEdges_request hl hrun
  rw [show s.cfg.stages = s.isr.qReq.length + 1 by rw [h.qReq]; omega, chainRun_all, h.qReq] at hchain
  exact ⟨congrArg Prod.snd hchain, congrArg Prod.fst hchain⟩

/-! ### An edge of both clocks -/

/-- `a` with the interrupt domain, its serial unit and its sink as they are in `s`. -/
def State.withIsrOf (a s : State) : State :=
  { a with cfg := s.cfg, isr := s.isr, ser := s.ser, ghost := { a.ghost with txSink := s.ghost.txSink } }

/-- FG writes nothing of the interrupt domain (10_state.md R20). -/
theorem fgStep_frame (h : fgStep s = .next a) :
    a.isr = s.isr ∧ a.ser = s.ser ∧ a.ghost.txSink = s.ghost.txSink := by
  rcases fgStep_next h with ⟨i, hi, he⟩ | ⟨-, -, he⟩ | ⟨-, -, rfl⟩
  · obtain ⟨hisr, hser, -, hsink, -⟩ := exec_fgCommand_frame (inProgress_isFgCommand hi) he
    exact ⟨hisr, hser, hsink⟩
  · obtain ⟨hisr, hser, -, hsink, -⟩ := exec_fgCommand_frame (decodeCmd_isFgCommand _) he
    exact ⟨hisr, hser, hsink⟩
  · exact ⟨rfl, rfl, rfl⟩

theorem eq_withIsrOf (hcfg : a.cfg = s.cfg) (hisr : a.isr = s.isr) (hser : a.ser = s.ser)
    (hsink : a.ghost.txSink = s.ghost.txSink) : a = a.withIsrOf s := by
  unfold State.withIsrOf
  rw [← hcfg, ← hisr, ← hser, ← hsink]

theorem fgEdge_withIsrOf {g : FgSample} (h : fgEdge g s = .next a) : a = a.withIsrOf s := by
  obtain ⟨b, hstep, hchains⟩ := fgEdge_next h
  obtain ⟨hisr, hser, hsink⟩ := fgStep_frame hstep
  obtain ⟨r, rfl⟩ := fgChains_next hchains
  exact eq_withIsrOf (fgStep_sameLine hstep).1 hisr hser hsink

/-- `ISR.RXC` reads nothing of the foreground. -/
theorem exec_isrRxc_withIsrOf (a : State) (h : exec .isrRxc s = .next t) :
    exec .isrRxc (a.withIsrOf s) = .next (a.withIsrOf t) := by
  rcases execIsrRxc_next h with ⟨hirq, rfl⟩ | ⟨hirq, hf, rfl⟩ | ⟨hirq, hf, rfl⟩
  · exact exec_isrRxc_of_no_trigger hirq
  · exact exec_isrRxc_of_full hirq hf
  · exact exec_isrRxc_of_room hirq hf

/-- Of the foreground `ISR.DRE` reads the entry it hands over alone. -/
theorem exec_isrDre_withIsrOf (h : exec .isrDre s = .next t)
    (hentry : s.txWr = true → Mem.read (w := 8) a.fg.txMem (idx s.cfg.nTx s.isr.txRptr) =
      Mem.read (w := 8) s.fg.txMem (idx s.cfg.nTx s.isr.txRptr)) :
    exec .isrDre (a.withIsrOf s) = .next (a.withIsrOf t) := by
  rcases execIsrDre_next h with ⟨hirq, rfl⟩ | ⟨hirq, he, rfl⟩ | ⟨hirq, he, b, hb, rfl⟩
  · exact exec_isrDre_of_no_trigger hirq
  · exact exec_isrDre_of_empty hirq he
  · exact exec_isrDre_of_data hirq he ((hentry (by simp [State.txWr, hirq, he])).trans hb)

/-- Of the foreground CTL reads the baud value alone, where it enables. -/
theorem ctlOnEdge_withIsrOf
    (hbaud : old.isr.phase = .disabled → old.isr.enReqView = true → a.fg.baudHold = s.fg.baudHold) :
    ctlOnEdge (a.withIsrOf old) (a.withIsrOf s) = a.withIsrOf (ctlOnEdge old s) := by
  have hisr : (a.withIsrOf old).isr = old.isr := rfl
  have hser : (a.withIsrOf old).ser = old.ser := rfl
  unfold ctlOnEdge
  rw [hisr, hser]
  cases hp : old.isr.phase <;> dsimp only
  case disabled =>
    cases hv : old.isr.enReqView with
    | false => rfl
    | true =>
      show (a.withIsrOf s).enableIsr = a.withIsrOf s.enableIsr
      have hbaud := hbaud hp hv
      simp only [State.withIsrOf, State.enableIsr, State.initIsr, hbaud]
  all_goals split <;> rfl

/-- A `clk_isr` edge is the same beside any foreground that has the bundled data it reads. -/
theorem isrEdge_withIsrOf {g : IsrSample} (h : isrEdge g s = .next u)
    (hentry : s.txWr = true → Mem.read (w := 8) a.fg.txMem (idx s.cfg.nTx s.isr.txRptr) =
      Mem.read (w := 8) s.fg.txMem (idx s.cfg.nTx s.isr.txRptr))
    (hbaud : s.isr.phase = .disabled → s.isr.enReqView = true → a.fg.baudHold = s.fg.baudHold) :
    isrEdge g (a.withIsrOf s) = .next (a.withIsrOf u) := by
  obtain ⟨b, c, hrxc, hdre, rfl⟩ := isrEdge_next h
  have hkept := exec_keeps (fun s => (s.txWr, s.cfg.nTx, s.fg, s.isr.txRptr)) rfl hrxc
  simp only [Prod.mk.injEq] at hkept
  obtain ⟨htxWr, hn, hfg, hrptr⟩ := hkept
  have hentry' : b.txWr = true → Mem.read (w := 8) a.fg.txMem (idx b.cfg.nTx b.isr.txRptr) =
      Mem.read (w := 8) b.fg.txMem (idx b.cfg.nTx b.isr.txRptr) := by
    rw [htxWr, hn, hfg, hrptr]
    exact hentry
  have hfg' : c.fg = s.fg := (exec_keeps (·.fg) rfl hdre).trans hfg
  have hctl : ctlOnEdge (a.withIsrOf s) (a.withIsrOf (isrChains g s c)) =
      a.withIsrOf (ctlOnEdge s (isrChains g s c)) :=
    ctlOnEdge_withIsrOf fun hp hv => (hbaud hp hv).trans (congrArg FgRegs.baudHold hfg').symm
  exact (andThen_of_next (exec_isrRxc_withIsrOf a hrxc)).trans <|
    (andThen_of_next (exec_isrDre_withIsrOf hdre hentry')).trans (congrArg _ hctl)

/-- Settles O55: a chain is a queue; the request's chain is run by the edges of `clk_isr`; and on an edge of
both clocks the interrupt domain's edge is the one from the state before, beside the foreground's. -/
theorem chainDeliversHeldValues : Obligations.ChainDeliversHeldValues := by
  refine ⟨fun α g v q => ⟨chainRun_all g v q, fun k hk => ?_⟩, fun m old new k hnew => ?_,
    sampleBits_getLsbD, fun s m t => isrEdges_deliver_request, ?_⟩
  · rw [chainRun_last g v hk, List.getElem?_eq_getElem]
  · rw [hnew, sampleBits_of_one_bit]
    split
    · exact .inl rfl
    · exact .inr rfl
  · rintro s m f i g h hf hi rfl rfl
    have hboth : clockStep .both m s = _ := (andThen_of_next hf).trans (andThen_of_next hi)
    refine ⟨hboth, fun a u ha hu hentry hbaud => hboth.trans ((andThen_of_next ha).trans ?_)⟩
    have hisr := isrEdge_withIsrOf hu hentry hbaud
    rw [← fgEdge_withIsrOf ha] at hisr
    have hcfg : u.cfg = a.cfg := (isrEdge_sameLine hu).1.trans (fgEdge_sameLine ha).1.symm
    exact hisr.trans (by rw [State.withIsrOf, hcfg])

end Sys2Proof.Machine
end

section
/-! PROOFS: one `clk_fg` edge (43_cdc_sync.md R220, 41_fg_commands.md R183): what FG's step leaves, then
the chains, against the crossings' steps one at a time, and the edges of OPEN written out. -/

namespace Sys2Proof.Machine

open Sys2Proof.Safety

variable {s t a : State} {x y : Ptr} {z : Bool} {e : Byte} {f : Fault} {g : FgSample}

/-! ### The chains on an edge -/

/-- The foreground's registers `r` after an edge from `old` at which the chains sample `g` and
`rx_err_view` becomes `e`. -/
def FgRegs.afterChains (r old : FgRegs) (g : FgSample) (e : Byte) : FgRegs :=
  { r with
    txRview := ungray (chainShift g.txr old.qTxr).2, qTxr := (chainShift g.txr old.qTxr).1
    rxWview := ungray (chainShift g.rxw old.qRxw).2, qRxw := (chainShift g.rxw old.qRxw).1
    rxErrView := e
    enAckView := (chainShift g.ack old.qAck).2, qAck := (chainShift g.ack old.qAck).1 }

theorem openFinishes_eq_false (h : ¬(s.fg.phase = .openWait ∧ s.fg.enAckView = true)) :
    s.openFinishes = false := by
  simpa [State.openFinishes] using h

/-- An edge other than OPEN.3's (43_cdc_sync.md R220). -/
theorem fgEdge_of_errView (hstep : fgStep s = .next a)
    (hfin : ¬(s.fg.phase = .openWait ∧ s.fg.enAckView = true))
    (he : s.errViewAt (ungray (chainShift g.rxw s.fg.qRxw).2) = .ok e) :
    fgEdge g s = .next { a with fg := a.fg.afterChains s.fg g e } := by
  refine (andThen_of_next hstep).trans ?_
  simp only [fgChains, openFinishes_eq_false hfin, he]
  rfl

theorem fgEdge_of_fault (hstep : fgStep s = .next a)
    (hfin : ¬(s.fg.phase = .openWait ∧ s.fg.enAckView = true))
    (hf : s.errViewAt (ungray (chainShift g.rxw s.fg.qRxw).2) = .error f) :
    fgEdge g s = .fault f := by
  refine (andThen_of_next hstep).trans ?_
  simp only [fgChains, openFinishes_eq_false hfin, hf]
  rfl

/-- OPEN.3's clear wins over the chains it clears (41_fg_commands.md R183). -/
theorem fgEdge_of_openFinish (hstep : fgStep s = .next a) (hp : s.fg.phase = .openWait)
    (hackv : s.fg.enAckView = true) :
    fgEdge g s = .next { a with fg := { a.fg with
      enAckView := (chainShift g.ack s.fg.qAck).2, qAck := (chainShift g.ack s.fg.qAck).1 } } := by
  refine (andThen_of_next hstep).trans ?_
  simp only [fgChains, State.openFinishes, hp, hackv]
  rfl

/-! ### The crossings' steps on an edge -/

/-- What the chains into the foreground domain write. -/
def fgViews (s : State) : Ptr × Ptr × Byte × Bool :=
  (s.fg.txRview, s.fg.rxWview, s.fg.rxErrView, s.fg.enAckView)

theorem exec_fgCommand_keeps_views {i : Instr} (hi : isFgCommand i) (hp : s.fg.phase ≠ .openWait)
    (h : exec i s = .next t) : fgViews t = fgViews s := by
  cases i with
  | openLine baud =>
    rcases execOpenLine_next h with ⟨-, -, rfl⟩ | ⟨-, -, rfl⟩ | ⟨-, rfl⟩ | ⟨hwait, -, -⟩ |
      ⟨-, -, rfl⟩ | ⟨-, -, -, rfl⟩
    case inr.inr.inr.inl => exact absurd hwait hp
    all_goals rfl
  | nop | closeLine | send | read | txstat | rxstat | rsvd7 => exact exec_keeps fgViews rfl h
  | _ => exact hi.elim

/-- Of FG's steps only OPEN.3 writes a view (10_state.md R44). -/
theorem fgStep_keeps_views (hp : s.fg.phase ≠ .openWait) (h : fgStep s = .next t) :
    t.fg.txRview = s.fg.txRview ∧ t.fg.rxWview = s.fg.rxWview ∧
    t.fg.rxErrView = s.fg.rxErrView ∧ t.fg.enAckView = s.fg.enAckView := by
  have hviews : fgViews t = fgViews s := by
    rcases fgStep_next h with ⟨i, hi, he⟩ | ⟨-, -, he⟩ | ⟨-, -, rfl⟩
    · exact exec_fgCommand_keeps_views (inProgress_isFgCommand hi) hp he
    · exact exec_fgCommand_keeps_views (s := s.accept) (decodeCmd_isFgCommand _) hp he
    · rfl
  simpa only [fgViews, Prod.mk.injEq] using hviews

theorem syncTxr_on_edge (ho : ¬Opening s)
    (h : x = s.fg.txRview ∨ mayAdvance s.cfg.nTx s.fg.txRview x s.isr.txRptr = true) :
    (if x = s.fg.txRview then .next s else exec (.syncTxr x) s) =
      .next { s with fg := { s.fg with txRview := x } } := by
  by_cases hx : x = s.fg.txRview
  · rw [if_pos hx, hx]
  · rw [if_neg hx, exec_syncTxr_of_mayAdvance ho (h.resolve_left hx)]

theorem syncRxw_on_edge (ho : ¬Opening s)
    (h : x = s.fg.rxWview ∨ mayAdvance s.cfg.nRx s.fg.rxWview x s.isr.rxWptr = true)
    (he : s.errViewAt x = .ok e) :
    (if x = s.fg.rxWview then .next s else exec (.syncRxw x) s) =
      .next { s with fg := { s.fg with rxWview := x, rxErrView := e } } := by
  rw [errViewAt_ok] at he
  by_cases hx : x = s.fg.rxWview
  · rw [if_pos (.inr hx)] at he
    rw [if_pos hx, hx, he]
  · rw [if_neg (not_or.2 ⟨ho, hx⟩)] at he
    obtain ⟨tag, htag, rfl⟩ := Option.map_eq_some_iff.1 he
    rw [if_neg hx, exec_syncRxw_of_tag ho (h.resolve_left hx) htag]

theorem syncRxw_on_edge_fault (ho : ¬Opening s)
    (h : x = s.fg.rxWview ∨ mayAdvance s.cfg.nRx s.fg.rxWview x s.isr.rxWptr = true)
    (hf : s.errViewAt x = .error f) :
    (if x = s.fg.rxWview then .next s else exec (.syncRxw x) s) = .fault f := by
  by_cases hx : x = s.fg.rxWview
  · simp [State.errViewAt, hx] at hf
  · have htag : s.newestTag x = .error f := by
      cases htag : s.newestTag x <;>
        simp [State.errViewAt, fgCrossingsOn_of_not_opening ho, hx, htag] at hf
      rw [hf]
    rw [if_neg hx, exec_syncRxw_of_fault ho (h.resolve_left hx) htag]

theorem syncAck_on_edge (h : z = s.fg.enAckView ∨ z = s.isr.enAck) :
    (if z = s.fg.enAckView then .next s else exec .syncAck s) =
      .next { s with fg := { s.fg with enAckView := z } } := by
  by_cases hz : z = s.fg.enAckView
  · rw [if_pos hz, hz]
  · rw [if_neg hz, h.resolve_left hz]
    rfl

/-- The crossings into the foreground domain one at a time, with what their chains deliver on an edge; one
whose view does not change takes no step. -/
def fgCrossings (x y : Ptr) (z : Bool) (s : State) : Host.Outcome State Fault Refusal :=
  andThen (if x = s.fg.txRview then .next s else exec (.syncTxr x) s) fun u =>
  andThen (if y = s.fg.rxWview then .next u else exec (.syncRxw y) u) fun v =>
  if z = s.fg.enAckView then .next v else exec .syncAck v

section Crossings

variable (ho : ¬Opening s)
  (htxr : x = s.fg.txRview ∨ mayAdvance s.cfg.nTx s.fg.txRview x s.isr.txRptr = true)
  (hrxw : y = s.fg.rxWview ∨ mayAdvance s.cfg.nRx s.fg.rxWview y s.isr.rxWptr = true)

include ho htxr hrxw

theorem fgCrossings_of_errView (hack : z = s.fg.enAckView ∨ z = s.isr.enAck)
    (he : s.errViewAt y = .ok e) :
    fgCrossings x y z s = .next { s with fg := { s.fg with
      txRview := x, rxWview := y, rxErrView := e, enAckView := z } } :=
  (andThen_of_next (syncTxr_on_edge ho htxr)).trans <|
    (andThen_of_next
      (syncRxw_on_edge (s := { s with fg := { s.fg with txRview := x } }) ho hrxw he)).trans <|
    syncAck_on_edge (s := { s with fg := { s.fg with
      txRview := x, rxWview := y, rxErrView := e } }) hack

theorem fgCrossings_of_fault (hf : s.errViewAt y = .error f) : fgCrossings x y z s = .fault f := by
  have hfault := syncRxw_on_edge_fault (s := { s with fg := { s.fg with txRview := x } }) ho hrxw hf
  refine (andThen_of_next (syncTxr_on_edge ho htxr)).trans ?_
  rw [hfault]
  rfl

end Crossings

/-- FG's step and then the crossings' are the edge, but for the chains' inner stages: outside OPEN FG's step
moves no view and no original into the foreground domain. -/
theorem fgEdge_eq_crossings (hs : ¬Opening s) (ht : ¬Opening t) (hstep : fgStep s = .next t)
    (htxr : ungray (chainShift g.txr s.fg.qTxr).2 = s.fg.txRview ∨ mayAdvance s.cfg.nTx s.fg.txRview
      (ungray (chainShift g.txr s.fg.qTxr).2) s.isr.txRptr = true)
    (hrxw : ungray (chainShift g.rxw s.fg.qRxw).2 = s.fg.rxWview ∨ mayAdvance s.cfg.nRx s.fg.rxWview
      (ungray (chainShift g.rxw s.fg.qRxw).2) s.isr.rxWptr = true)
    (hack : (chainShift g.ack s.fg.qAck).2 = s.fg.enAckView ∨
      (chainShift g.ack s.fg.qAck).2 = s.isr.enAck) :
    sameButChains (fgEdge g s) (fgCrossings (ungray (chainShift g.txr s.fg.qTxr).2)
      (ungray (chainShift g.rxw s.fg.qRxw).2) (chainShift g.ack s.fg.qAck).2 t) := by
  have hfin : ¬(s.fg.phase = .openWait ∧ s.fg.enAckView = true) := fun h => hs (.inr h.1)
  have hisr := (fgStep_frame hstep).1
  have hcfg := (fgStep_sameLine hstep).1
  obtain ⟨htxv, hrxv, herrv, hackv⟩ := fgStep_keeps_views (not_or.1 hs).2 hstep
  have herrAt (x : Ptr) : t.errViewAt x = s.errViewAt x := by
    simp only [State.errViewAt, State.newestTag, fgCrossingsOn_of_not_opening hs,
      fgCrossingsOn_of_not_opening ht, hisr, hcfg, hrxv, herrv]
  rw [← htxv, ← hisr, ← hcfg] at htxr
  rw [← hrxv, ← hisr, ← hcfg] at hrxw
  rw [← hackv, ← hisr] at hack
  cases herr : s.errViewAt (ungray (chainShift g.rxw s.fg.qRxw).2) with
  | error f =>
    rw [fgEdge_of_fault hstep hfin herr,
      fgCrossings_of_fault ht htxr hrxw ((herrAt _).trans herr)]
    rfl
  | ok e =>
    rw [fgEdge_of_errView hstep hfin herr,
      fgCrossings_of_errView ht htxr hrxw hack ((herrAt _).trans herr)]
    rfl

/-! ### The edges of OPEN -/

/-- Inside the OPEN window `rx_err_view` stays (43_cdc_sync.md R228). -/
theorem errViewAt_of_opening (ho : Opening s) (x : Ptr) : s.errViewAt x = .ok s.fg.rxErrView := by
  rw [errViewAt_ok, if_pos (.inl ho)]

/-- Settles O56: an edge is FG's step and the chains, which the crossings' steps repeat one at a time; the
edges of OPEN are FG's step of that phase with the chains. -/
theorem foregroundEdge : Obligations.ForegroundEdge := by
  refine ⟨fun s m => rfl, fun g s t hstep hs ht htxr hrxw hack => ?_,
    fun g s a e hstep hfin he => fgEdge_of_errView hstep hfin (errViewAt_ok.2 he),
    fun g s baud e hp ho hv hcmd he => ?_, fun g s hp => ?_, fun g s hp hackv => ?_,
    fun g s hp hackv => ?_⟩
  · obtain ⟨htxv, hrxv, -, hackv⟩ := fgStep_keeps_views (not_or.1 hs).2 hstep
    have hedge := fgEdge_eq_crossings hs ht hstep htxr hrxw hack
    rwa [fgCrossings, htxv, hrxv, hackv] at hedge
  · have hstep : fgStep s = .next (s.accept.openStart baud) := by
      rw [fgStep_of_presented hp hv, hcmd]
      exact exec_openLine_of_closed (s := s.accept) hp ho
    exact fgEdge_of_errView hstep (by simp [hp]) (errViewAt_ok.2 (by simpa [hp] using he))
  · exact fgEdge_of_errView ((fgStep_of_opening (.inl hp)).trans (exec_openLine_of_openInit hp))
      (by simp [hp]) (errViewAt_of_opening (.inl hp) _)
  · exact fgEdge_of_errView
      ((fgStep_of_opening (.inr hp)).trans (exec_openLine_of_unacknowledged hp hackv))
      (by simp [hackv]) (errViewAt_of_opening (.inr hp) _)
  · exact fgEdge_of_openFinish
      ((fgStep_of_opening (.inr hp)).trans (exec_openLine_of_acknowledged hp hackv)) hp hackv

end Sys2Proof.Machine
end

section
/-! PROOFS: one `clk_isr` edge (43_cdc_sync.md R220, 42_isr_handlers.md R207): the handlers, the chains and
CTL's step, against the same steps one at a time. -/

namespace Sys2Proof.Machine

open Sys2Proof.Safety

variable {s t a b u w old : State} {x y : Ptr} {z : Bool} {g : IsrSample}

/-! ### What the handlers leave -/

/-- `b` has what neither handler writes as it is in `s` (10_state.md R44). -/
structure HandlersFrame (s b : State) : Prop where
  cfg : b.cfg = s.cfg
  fg : b.fg = s.fg
  phase : b.isr.phase = s.isr.phase
  settleCnt : b.isr.settleCnt = s.isr.settleCnt
  txWview : b.isr.txWview = s.isr.txWview
  rxRview : b.isr.rxRview = s.isr.rxRview
  enReqView : b.isr.enReqView = s.isr.enReqView

section Handlers

variable (ha : exec .isrRxc s = .next a) (hb : exec .isrDre a = .next b)

include ha hb

theorem handlersFrame : HandlersFrame s b := by
  have hkeeps {α : Type} (f : State → α) (hrxc : f (s.writtenBy .isrRxc a) = f s)
      (hdre : f (a.writtenBy .isrDre b) = f a) : f b = f s :=
    (exec_keeps f hdre hb).trans (exec_keeps f hrxc ha)
  exact ⟨hkeeps (·.cfg) rfl rfl, hkeeps (·.fg) rfl rfl, hkeeps (·.isr.phase) rfl rfl,
    hkeeps (·.isr.settleCnt) rfl rfl, hkeeps (·.isr.txWview) rfl rfl,
    hkeeps (·.isr.rxRview) rfl rfl, hkeeps (·.isr.enReqView) rfl rfl⟩

/-- `ISR.DRE` disarms itself with nothing to hand over, by the state before the edge
(42_isr_handlers.md R202). -/
theorem handlers_dreie :
    b.isr.dreie = if s.irqTx && s.txEmptyIsr then false else s.isr.dreie := by
  have hkept := exec_keeps (fun s => (s.irqTx, s.txEmptyIsr, s.isr.dreie)) rfl ha
  simp only [Prod.mk.injEq] at hkept
  obtain ⟨hirq, hempty, hdreie⟩ := hkept
  rw [← hirq, ← hempty, ← hdreie]
  rcases execIsrDre_next hb with ⟨hi, rfl⟩ | ⟨hi, he, rfl⟩ | ⟨hi, he, _, -, rfl⟩
  · simp [hi]
  · simp [hi, he]
  · simp [hi, he]

/-- `dre` falls on an edge only with a byte handed over. -/
theorem handlers_dre (htxWr : s.txWr = false) : b.ser.dre = s.ser.dre := by
  have hkept := exec_keeps (fun s => (s.txWr, s.ser.dre)) rfl ha
  simp only [Prod.mk.injEq] at hkept
  obtain ⟨hwr, hdre⟩ := hkept
  rcases execIsrDre_next hb with ⟨-, rfl⟩ | ⟨-, -, rfl⟩ | ⟨hi, he, _, -, -⟩
  · exact hdre
  · exact hdre
  · have hsends : a.txWr = true := by simp [State.txWr, hi, he]
    simp [hsends, htxWr] at hwr

end Handlers

/-! ### CTL's step on an edge -/

/-- CTL enables on this edge. -/
abbrev Enabling (s : State) : Prop := s.isr.phase = .disabled ∧ s.isr.enReqView = true

/-- CTL disables on this edge. -/
abbrev Disabling (s : State) : Prop := s.isr.phase = .settle ∧ s.isr.settleCnt = 0

/-- `isr_phase` after an edge from `s` (42_isr_handlers.md R209). -/
def State.phaseAfterEdge (s : State) : IsrPhase :=
  match s.isr.phase with
  | .disabled => if s.isr.enReqView then .enabled else .disabled
  | .enabled => if s.isr.enReqView then .enabled else .waitDre
  | .waitDre => if s.ser.dre then .settle else .waitDre
  | .settle => if s.isr.settleCnt ≠ 0 then .settle else .disabled

/-- `settle_cnt` after an edge from `s` on which CTL does not disable (42_isr_handlers.md R205, R206). -/
def State.settleCntAfterEdge (s : State) : BitVec 16 :=
  match s.isr.phase with
  | .disabled => s.isr.settleCnt
  | .enabled => s.isr.settleCnt
  | .waitDre => if s.ser.dre then s.cfg.tSettle else s.isr.settleCnt
  | .settle => s.isr.settleCnt - 1

theorem ctlOnEdge_of_enabling (h : Enabling s) : ctlOnEdge s u = u.enableIsr := by
  simp only [ctlOnEdge, h.1, h.2, if_true]

theorem ctlOnEdge_of_disabling (h : Disabling s) : ctlOnEdge s u = u.disableIsr :=
  ctlOnEdge_of_expired h.1 h.2

/-- Where CTL neither enables nor disables it writes its phase and its counter alone. -/
theorem ctlOnEdge_of_neither (hen : ¬Enabling s) (hdis : ¬Disabling s) :
    ∃ p c, ctlOnEdge s u = { u with isr := { u.isr with phase := p, settleCnt := c } } := by
  rcases ctlOnEdge_cases s u with ⟨hp, hv, -⟩ | ⟨-, -, h⟩ | ⟨-, -, h⟩ | ⟨-, -, h⟩ | ⟨-, -, h⟩ |
    ⟨-, -, h⟩ | ⟨-, -, h⟩ | ⟨hp, hv, -⟩
  case inl => exact absurd ⟨hp, hv⟩ hen
  case inr.inr.inr.inr.inr.inr.inr => exact absurd ⟨hp, hv⟩ hdis
  all_goals exact ⟨_, _, h⟩

theorem ctlOnEdge_phase (hphase : u.isr.phase = s.isr.phase) :
    (ctlOnEdge s u).isr.phase = s.phaseAfterEdge := by
  rcases ctlOnEdge_cases s u with ⟨hp, hc, h⟩ | ⟨hp, hc, h⟩ | ⟨hp, hc, h⟩ | ⟨hp, hc, h⟩ |
    ⟨hp, hc, h⟩ | ⟨hp, hc, h⟩ | ⟨hp, hc, h⟩ | ⟨hp, hc, h⟩
  case inr.inr.inr.inr.inr.inr.inl =>
    rw [h, State.phaseAfterEdge, hp]
    exact (hphase.trans hp).trans (if_pos hc).symm
  all_goals rw [h]; simp [State.phaseAfterEdge, hp, hc, hphase]

theorem ctlOnEdge_settleCnt (hdis : ¬Disabling s) (hcfg : u.cfg = s.cfg)
    (hcnt : u.isr.settleCnt = s.isr.settleCnt) :
    (ctlOnEdge s u).isr.settleCnt = s.settleCntAfterEdge := by
  rcases ctlOnEdge_cases s u with ⟨hp, hc, h⟩ | ⟨hp, hc, h⟩ | ⟨hp, hc, h⟩ | ⟨hp, hc, h⟩ |
    ⟨hp, hc, h⟩ | ⟨hp, hc, h⟩ | ⟨hp, hc, h⟩ | ⟨hp, hc, -⟩
  case inr.inr.inr.inr.inr.inr.inr => exact absurd ⟨hp, hc⟩ hdis
  all_goals rw [h]; simp [State.settleCntAfterEdge, hp, hc, hcnt, hcfg]

/-! ### The edge -/

/-- The interrupt domain's registers `r` after an edge from `s` at which the chains sample `g`. -/
def IsrRegs.afterChains (r : IsrRegs) (s : State) (g : IsrSample) : IsrRegs :=
  { r with
    txWview := ungray (chainShift g.txw s.isr.qTxw).2, qTxw := (chainShift g.txw s.isr.qTxw).1
    rxRview := ungray (chainShift g.rxr s.isr.qRxr).2, qRxr := (chainShift g.rxr s.isr.qRxr).1
    enReqView := (chainShift g.req s.isr.qReq).2, qReq := (chainShift g.req s.isr.qReq).1
    dreie := if s.isr.phase ≠ .disabled ∧ ungray (chainShift g.txw s.isr.qTxw).2 ≠ s.isr.txWview then
      true else r.dreie }

theorem isrChains_eq (g : IsrSample) (s b : State) :
    isrChains g s b = { b with isr := b.isr.afterChains s g } := by
  simp [isrChains, IsrRegs.afterChains, State.isrCrossingsOn]

/-- What a `clk_isr` edge is made of, the chains written out. -/
theorem isrEdge_parts (h : isrEdge g s = .next t) :
    ∃ a b, exec .isrRxc s = .next a ∧ exec .isrDre a = .next b ∧
      t = ctlOnEdge s { b with isr := b.isr.afterChains s g } := by
  obtain ⟨a, b, ha, hb, rfl⟩ := isrEdge_next h
  exact ⟨a, b, ha, hb, by rw [isrChains_eq]⟩

/-- `DREIE` after an edge: CTL's clear beats the set by a new `tx_wptr`, which beats `ISR.DRE`'s clear
(42_isr_handlers.md R207). -/
theorem isrEdge_dreie (h : isrEdge g s = .next t) : t.isr.dreie =
    (if Enabling s ∨ Disabling s then false
     else if s.isr.phase ≠ .disabled ∧ ungray (chainShift g.txw s.isr.qTxw).2 ≠ s.isr.txWview then
       true
     else if s.irqTx && s.txEmptyIsr then false else s.isr.dreie) := by
  obtain ⟨a, b, ha, hb, rfl⟩ := isrEdge_parts h
  by_cases hen : Enabling s
  · rw [ctlOnEdge_of_enabling hen, if_pos (.inl hen)]
    rfl
  by_cases hdis : Disabling s
  · rw [ctlOnEdge_of_disabling hdis, if_pos (.inr hdis)]
    rfl
  · obtain ⟨p, c, hctl⟩ := ctlOnEdge_of_neither (u := { b with isr := b.isr.afterChains s g }) hen hdis
    rw [hctl, if_neg (not_or.2 ⟨hen, hdis⟩), ← handlers_dreie ha hb]
    rfl

theorem isrEdge_views (h : isrEdge g s = .next t) : (t.isr.txWview, t.isr.rxRview) =
    if Enabling s then (0, 0)
    else (ungray (chainShift g.txw s.isr.qTxw).2, ungray (chainShift g.rxr s.isr.qRxr).2) := by
  obtain ⟨a, b, ha, hb, rfl⟩ := isrEdge_parts h
  by_cases hen : Enabling s
  · rw [ctlOnEdge_of_enabling hen, if_pos hen]
    rfl
  rw [if_neg hen]
  by_cases hdis : Disabling s
  · rw [ctlOnEdge_of_disabling hdis]
    rfl
  · obtain ⟨p, c, hctl⟩ := ctlOnEdge_of_neither (u := { b with isr := b.isr.afterChains s g }) hen hdis
    rw [hctl]
    rfl

theorem isrEdge_phase (h : isrEdge g s = .next t) : t.isr.phase = s.phaseAfterEdge := by
  obtain ⟨a, b, ha, hb, rfl⟩ := isrEdge_parts h
  exact ctlOnEdge_phase (handlersFrame ha hb).phase

/-! ### The steps one at a time -/

theorem syncTxw_on_edge (h : x = s.isr.txWview ∨ (s.isr.phase ≠ .disabled ∧
      mayAdvance s.cfg.nTx s.isr.txWview x s.fg.txWptr = true)) :
    (if x = s.isr.txWview then .next s else exec (.syncTxw x) s) =
      .next { s with isr := { s.isr with
        txWview := x
        dreie := if s.isr.phase ≠ .disabled ∧ x ≠ s.isr.txWview then true else s.isr.dreie } } := by
  by_cases hx : x = s.isr.txWview
  · rw [if_pos hx, if_neg fun hnew => hnew.2 hx, hx]
  · obtain ⟨hon, hadv⟩ := h.resolve_left hx
    rw [if_neg hx, if_pos ⟨hon, hx⟩, exec_syncTxw_of_mayAdvance hon hadv]

theorem syncRxr_on_edge (h : x = s.isr.rxRview ∨ (s.isr.phase ≠ .disabled ∧
      mayAdvance s.cfg.nRx s.isr.rxRview x s.fg.rxRptr = true)) :
    (if x = s.isr.rxRview then .next s else exec (.syncRxr x) s) =
      .next { s with isr := { s.isr with rxRview := x } } := by
  by_cases hx : x = s.isr.rxRview
  · rw [if_pos hx, hx]
  · obtain ⟨hon, hadv⟩ := h.resolve_left hx
    rw [if_neg hx, exec_syncRxr_of_mayAdvance hon hadv]

theorem syncReq_on_edge (h : z = s.isr.enReqView ∨ z = s.fg.enReq) :
    (if z = s.isr.enReqView then .next s else exec .syncReq s) =
      .next { s with isr := { s.isr with enReqView := z } } := by
  by_cases hz : z = s.isr.enReqView
  · rw [if_pos hz, hz]
  · rw [if_neg hz, h.resolve_left hz]
    rfl

theorem andThen_assoc (o : Host.Outcome State Fault Refusal)
    (k l : State → Host.Outcome State Fault Refusal) :
    andThen (andThen o k) l = andThen o fun s => andThen (k s) l := by
  cases o <;> rfl

/-- The crossings into the interrupt domain one at a time, with what their chains deliver on an edge; one
whose view does not change takes no step. -/
def isrCrossings (x y : Ptr) (z : Bool) (s : State) : Host.Outcome State Fault Refusal :=
  andThen (if x = s.isr.txWview then .next s else exec (.syncTxw x) s) fun u =>
  andThen (if y = s.isr.rxRview then .next u else exec (.syncRxr y) u) fun v =>
  if z = s.isr.enReqView then .next v else exec .syncReq v

theorem isrCrossings_of_mayAdvance
    (htxw : x = s.isr.txWview ∨ (s.isr.phase ≠ .disabled ∧
      mayAdvance s.cfg.nTx s.isr.txWview x s.fg.txWptr = true))
    (hrxr : y = s.isr.rxRview ∨ (s.isr.phase ≠ .disabled ∧
      mayAdvance s.cfg.nRx s.isr.rxRview y s.fg.rxRptr = true))
    (hreq : z = s.isr.enReqView ∨ z = s.fg.enReq) :
    isrCrossings x y z s = .next { s with isr := { s.isr with
      txWview := x
      dreie := if s.isr.phase ≠ .disabled ∧ x ≠ s.isr.txWview then true else s.isr.dreie
      rxRview := y, enReqView := z } } :=
  (andThen_of_next (syncTxw_on_edge htxw)).trans <|
    (andThen_of_next (syncRxr_on_edge (s := { s with isr := { s.isr with
      txWview := x
      dreie := if s.isr.phase ≠ .disabled ∧ x ≠ s.isr.txWview then true else s.isr.dreie } })
      hrxr)).trans <|
    syncReq_on_edge (s := { s with isr := { s.isr with
      txWview := x
      dreie := if s.isr.phase ≠ .disabled ∧ x ≠ s.isr.txWview then true else s.isr.dreie
      rxRview := y } }) hreq

/-- While DISABLED the level alone crosses (43_cdc_sync.md R228). -/
theorem isrCrossings_of_disabled (hp : s.isr.phase = .disabled)
    (hreq : z = s.isr.enReqView ∨ z = s.fg.enReq) :
    isrCrossings x y z s = .next { s with isr := { s.isr with enReqView := z } } := by
  have htxw : (if x = s.isr.txWview then .next s else exec (.syncTxw x) s) = .next s := by
    rw [exec_syncTxw_of_forbidden (.inl hp), ite_self]
  have hrxr : (if y = s.isr.rxRview then .next s else exec (.syncRxr y) s) = .next s := by
    rw [exec_syncRxr_of_forbidden (.inl hp), ite_self]
  exact (andThen_of_next htxw).trans ((andThen_of_next hrxr).trans (syncReq_on_edge hreq))

theorem exec_ctlClose3_of_register (hp : s.isr.phase = .settle) (hl : s.cfg.level = .register) :
    exec .ctlClose3 s =
      .next (if s.isr.settleCnt ≠ 0 then s.settleTick else s.disableIsr) := by
  refine (if_neg (not_not_intro hp)).trans ?_
  rw [hl, apply_ite Host.Outcome.next]

/-- Where no step before CTL's turns its guard, its operation does what CTL does on the edge. -/
theorem ctlIfEnabled_eq (hl : u.cfg.level = .register) (hphase : u.isr.phase = s.isr.phase)
    (hcnt : u.isr.settleCnt = s.isr.settleCnt)
    (hen : Enabling s → u.isr.enReqView = true)
    (hclose : s.isr.phase = .enabled → s.isr.enReqView = false → u.isr.enReqView = false)
    (hdre : s.isr.phase = .waitDre → u.ser.dre = s.ser.dre) :
    ctlIfEnabled s u = .next (ctlOnEdge s u) := by
  unfold ctlIfEnabled ctlOnEdge
  cases hp : s.isr.phase <;> rw [hp] at hphase <;> dsimp only
  case disabled =>
    cases hv : s.isr.enReqView with
    | false => rfl
    | true => exact exec_ctlEnable_of_requested hphase (hen ⟨hp, hv⟩)
  case enabled =>
    cases hv : s.isr.enReqView with
    | true => rfl
    | false => exact exec_ctlClose1_of_withdrawn hphase (hclose hp hv)
  case waitDre =>
    cases hd : s.ser.dre with
    | false => rfl
    | true => exact exec_ctlClose2_of_ready hphase ((hdre hp).trans hd)
  case settle =>
    rw [← hcnt]
    exact exec_ctlClose3_of_register hphase hl

/-- CTL reads no stage of a chain but the last. -/
theorem forgetChains_ctlOnEdge (s u : State) :
    forgetChains (ctlOnEdge s (forgetChains u)) = forgetChains (ctlOnEdge s u) := by
  unfold ctlOnEdge
  cases s.isr.phase <;> dsimp only <;> split <;> rfl

theorem forgetChains_ctlOnEdge_congr (h : forgetChains u = forgetChains w) :
    forgetChains (ctlOnEdge s u) = forgetChains (ctlOnEdge s w) := by
  rw [← forgetChains_ctlOnEdge s u, h, forgetChains_ctlOnEdge]

/-- The edge equals its steps one at a time, but for the chains' inner stages, where each crossing is enabled
or shows nothing new and no step before CTL's turns its guard. -/
theorem isrEdge_eq_steps (hl : s.cfg.level = .register) (ha : exec .isrRxc s = .next a)
    (hb : exec .isrDre a = .next b)
    (htxw : ungray (chainShift g.txw s.isr.qTxw).2 = s.isr.txWview ∨
      (s.isr.phase ≠ .disabled ∧ mayAdvance s.cfg.nTx s.isr.txWview
        (ungray (chainShift g.txw s.isr.qTxw).2) s.fg.txWptr = true) ∨ Enabling s)
    (hrxr : ungray (chainShift g.rxr s.isr.qRxr).2 = s.isr.rxRview ∨
      (s.isr.phase ≠ .disabled ∧ mayAdvance s.cfg.nRx s.isr.rxRview
        (ungray (chainShift g.rxr s.isr.qRxr).2) s.fg.rxRptr = true) ∨ Enabling s)
    (hreq : (chainShift g.req s.isr.qReq).2 = s.isr.enReqView ∨
      (chainShift g.req s.isr.qReq).2 = s.fg.enReq)
    (hen : Enabling s → (chainShift g.req s.isr.qReq).2 = true)
    (hclose : s.isr.phase = .enabled → s.isr.enReqView = false →
      (chainShift g.req s.isr.qReq).2 = false)
    (htxWr : s.isr.phase = .waitDre → s.txWr = false) :
    sameButChains (isrEdge g s) (andThen (isrCrossings (ungray (chainShift g.txw s.isr.qTxw).2)
      (ungray (chainShift g.rxr s.isr.qRxr).2) (chainShift g.req s.isr.qReq).2 b)
      (ctlIfEnabled s)) := by
  obtain ⟨hcfg, hfg, hphase, hcnt, htxv, hrxv, hreqv⟩ := handlersFrame ha hb
  have hedge : isrEdge g s = .next (ctlOnEdge s { b with isr := b.isr.afterChains s g }) := by
    rw [isrEdge, andThen_of_next ha, andThen_of_next hb, isrChains_eq]
  have hdre (hp : s.isr.phase = .waitDre) := handlers_dre ha hb (htxWr hp)
  have hctl (v r : Ptr) (d : Bool) := ctlIfEnabled_eq (s := s)
    (u := { b with isr := { b.isr with
      txWview := v, dreie := d, rxRview := r, enReqView := (chainShift g.req s.isr.qReq).2 } })
    (hcfg ▸ hl) hphase hcnt hen hclose hdre
  rw [← hreqv, ← hfg] at hreq
  by_cases he : Enabling s
  · have hcross := isrCrossings_of_disabled (x := ungray (chainShift g.txw s.isr.qTxw).2)
      (y := ungray (chainShift g.rxr s.isr.qRxr).2) (hphase.trans he.1) hreq
    have hsteps := (andThen_of_next hcross).trans (hctl b.isr.txWview b.isr.rxRview b.isr.dreie)
    rw [hedge, hsteps, ctlOnEdge_of_enabling he, ctlOnEdge_of_enabling he]
    rfl
  · replace htxw := htxw.imp_right (·.resolve_right he)
    replace hrxr := hrxr.imp_right (·.resolve_right he)
    rw [← htxv, ← hfg, ← hphase, ← hcfg] at htxw
    rw [← hrxv, ← hfg, ← hphase, ← hcfg] at hrxr
    have hcross := isrCrossings_of_mayAdvance htxw hrxr hreq
    rw [hedge, (andThen_of_next hcross).trans (hctl _ _ _)]
    refine forgetChains_ctlOnEdge_congr ?_
    rw [IsrRegs.afterChains, ← hphase, ← htxv]
    rfl

/-- Settles O57: an edge is the two handlers, the chains and CTL's step, of which CTL's writes beat the
chains' and the chains' beat the handlers'; the crossings' steps repeat the chains one at a time. -/
theorem interruptEdge : Obligations.InterruptEdge := by
  refine ⟨fun s m => rfl, fun g s t h => ?_, fun g s t h => ?_, ?_⟩
  · exact ⟨(isrEdge_request h).2, isrEdge_dreie h, isrEdge_views h,
      congrArg Prod.snd (isrEdge_request h).1, isrEdge_phase h⟩
  · obtain ⟨a, b, ha, hb, rfl⟩ := isrEdge_parts h
    obtain ⟨hcfg, hfg, hphase, hcnt, -⟩ := handlersFrame ha hb
    refine ⟨a, b, ha, hb, fun hp hv => ?_, fun hp hc => ?_, fun hen hdis => ?_⟩
    · rw [ctlOnEdge_of_enabling ⟨hp, hv⟩, ← hcfg, ← hfg]
      rfl
    · rw [ctlOnEdge_of_disabling ⟨hp, hc⟩]
      rfl
    · have hcnt' := ctlOnEdge_settleCnt (u := { b with isr := b.isr.afterChains s g }) hdis hcfg hcnt
      obtain ⟨p, c, hctl⟩ := ctlOnEdge_of_neither (u := { b with isr := b.isr.afterChains s g }) hen hdis
      rw [hctl] at hcnt' ⊢
      obtain rfl : c = s.settleCntAfterEdge := hcnt'
      rfl
  · intro g s a b hl ha hb htxw hrxr hreq hen hclose htxWr
    obtain ⟨-, -, -, -, htxv, hrxv, hreqv⟩ := handlersFrame ha hb
    have hedge := isrEdge_eq_steps hl ha hb htxw hrxr hreq (fun h => hen h.1 h.2) hclose htxWr
    simpa only [isrCrossings, andThen_assoc, htxv, hrxv, hreqv] using hedge

end Sys2Proof.Machine
end

section
/-! PROOFS: the serial unit's steps past their guards (44_environment.md R242, R244); held by its guard
each of them changes nothing (`exec_envRxArrive_of_forbidden`, `exec_envTxReady_of_forbidden`). -/

namespace Sys2Proof.Machine

variable {s : State}

theorem exec_envRxArrive_of_receiving {d : Byte} {e : BitVec 3} (hon : s.isr.rxen = true)
    (hfree : s.ser.rxc = false) :
    exec (.envRxArrive d e) s = .next { s with
      ser := { s.ser with rxc := true, rxData := d, rxErr := e }
      ghost := { s.ghost with rxSource := s.ghost.rxSource ++ [(d, e)] } } :=
  if_pos (by simp [hon, hfree])

theorem exec_envTxReady_of_sending (hfull : s.ser.dre = false) (hon : s.isr.txen = true) :
    exec .envTxReady s = .next { s with ser := { s.ser with dre := true } } :=
  if_pos (by simp [hfull, hon])

/-- Settles O31: past its guard each step writes the serial unit alone, and an arrival its ghost stream. -/
theorem environmentSteps : Obligations.EnvironmentSteps := fun _ =>
  ⟨fun _ _ => exec_envRxArrive_of_receiving, exec_envTxReady_of_sending⟩

end Sys2Proof.Machine
end

section
/-! PROOFS: the error responses of the line state (60_exceptions.md R261, R262, R267): the refused forms, which
only respond, and how many of the bits `ILLEGAL`, `ALREADY_OPEN`, `NOT_OPEN` a response has. -/

namespace Sys2Proof.Machine

variable {s t : State}

/-! ### The refused forms -/

theorem exec_read_of_closed (hp : s.fg.phase = .idle) (ho : s.fg.lineOpen = false) :
    exec .read s = .next (s.respond (rspNotOpen ||| rspNoData)) := by
  simp only [exec, execRead, State.cmdReady, hp, ho, decide_true, Bool.not_true, Bool.not_false,
    Bool.false_eq_true, if_false, if_true]

/-- At an idle port an operation that only responds writes the word and its strobe alone. -/
theorem exec_of_respond {i : Instr} {v : RspWord} (hp : s.fg.phase = .idle)
    (h : exec i s = .next (s.respond v)) :
    exec i s = .next { s with fg := { s.fg with rsp := v, rspValid := true } } :=
  respond_of_idle hp v ▸ h

/-- Settles O10: on an Open line OPEN only responds. -/
theorem openOnOpenLineRefused : Obligations.OpenOnOpenLineRefused := fun _ _ hp ho =>
  exec_of_respond hp (exec_openLine_of_open hp ho)

/-- Settles O11: on a Closed line each of the three only responds. -/
theorem closedLineRefuses : Obligations.ClosedLineRefuses := fun _ hp ho =>
  ⟨exec_of_respond hp (exec_closeLine_of_closed hp ho),
    fun _ => exec_of_respond hp (exec_send_of_closed hp ho),
    exec_of_respond hp (exec_read_of_closed hp ho)⟩

/-! ### The error bits of a response -/

/-- Of `ILLEGAL`, `ALREADY_OPEN` and `NOT_OPEN` a response has at most one, and `NOT_OPEN` comes without
receive flags (60_exceptions.md R267). -/
def LineErrorsExclusive (v : RspWord) : Prop :=
  ¬(v.getLsbD 15 = true ∧ v.getLsbD 14 = true) ∧ ¬(v.getLsbD 15 = true ∧ v.getLsbD 13 = true) ∧
    ¬(v.getLsbD 14 = true ∧ v.getLsbD 13 = true) ∧
    (v.getLsbD 13 = true → v.extractLsb' 9 4 = 0#4)

/-- A word with at most `ILLEGAL` of the three bits. -/
theorem lineErrorsExclusive_of_clear {v : RspWord} (h14 : v.getLsbD 14 = false)
    (h13 : v.getLsbD 13 = false) : LineErrorsExclusive v := by
  simp only [LineErrorsExclusive, h14, h13, Bool.false_eq_true, and_false, not_false_eq_true,
    false_implies, and_self]

/-- The flags lie below the three bits (30_encoding.md R103, R105). -/
theorem rspFlags_getLsbD_of_le (g : Tag) {i : Nat} (hi : 13 ≤ i) : (rspFlags g).getLsbD i = false := by
  have habove : g.getLsbD (i - 9) = false := BitVec.getLsbD_of_ge g (i - 9) (by omega)
  simp [rspFlags, habove]

theorem rspFlags_or_lineErrorsExclusive (g : Tag) {v : RspWord} (h14 : v.getLsbD 14 = false)
    (h13 : v.getLsbD 13 = false) : LineErrorsExclusive (rspFlags g ||| v) := by
  apply lineErrorsExclusive_of_clear
  · rw [BitVec.getLsbD_or, rspFlags_getLsbD_of_le g (by decide), h14, Bool.or_self]
  · rw [BitVec.getLsbD_or, rspFlags_getLsbD_of_le g (by decide), h13, Bool.or_self]

theorem rspData_lineErrorsExclusive (g : Tag) (b : Byte) : LineErrorsExclusive (rspData g b) :=
  rspFlags_or_lineErrorsExclusive g (by simp) (by simp)

theorem rspEmpty_lineErrorsExclusive (e : Byte) : LineErrorsExclusive (rspEmpty e) := by
  rw [rspEmpty, BitVec.or_comm]
  exact rspFlags_or_lineErrorsExclusive _ rfl rfl

theorem rspDone_lineErrorsExclusive : LineErrorsExclusive rspDone :=
  lineErrorsExclusive_of_clear rfl rfl

theorem rspIllegal_lineErrorsExclusive : LineErrorsExclusive rspIllegal :=
  lineErrorsExclusive_of_clear rfl rfl

theorem rspAlreadyOpen_lineErrorsExclusive : LineErrorsExclusive rspAlreadyOpen := by
  unfold LineErrorsExclusive; decide

theorem rspNotOpen_lineErrorsExclusive : LineErrorsExclusive rspNotOpen := by
  unfold LineErrorsExclusive; decide

theorem rspNotOpen_rspNoData_lineErrorsExclusive : LineErrorsExclusive (rspNotOpen ||| rspNoData) := by
  unfold LineErrorsExclusive; decide

/-! ### The response of each command -/

theorem response_of_atOnce {v : RspWord} (hp : s.fg.phase = .idle) (h : s.atOnce v = .next t) :
    t.fg.rsp = v := by
  cases (atOnce_of_idle hp).symm.trans h
  rfl

theorem openLine_lineErrorsExclusive {baud : BitVec 16} (hp : s.fg.phase = .idle)
    (h : exec (.openLine baud) s = .next t) (hv : t.fg.rspValid = true) :
    LineErrorsExclusive t.fg.rsp := by
  cases ho : s.fg.lineOpen with
  | true =>
    cases (exec_openLine_of_open hp ho).symm.trans h
    exact rspAlreadyOpen_lineErrorsExclusive
  | false =>
    cases (exec_openLine_of_closed hp ho).symm.trans h
    cases hv

theorem closeLine_lineErrorsExclusive (hp : s.fg.phase = .idle) (h : exec .closeLine s = .next t)
    (hv : t.fg.rspValid = true) : LineErrorsExclusive t.fg.rsp := by
  cases ho : s.fg.lineOpen with
  | true =>
    cases (exec_closeLine_of_open hp ho).symm.trans h
    cases hv
  | false =>
    cases (exec_closeLine_of_closed hp ho).symm.trans h
    exact rspNotOpen_lineErrorsExclusive

theorem send_lineErrorsExclusive {b : Byte} (hp : s.fg.phase = .idle) (h : exec (.send b) s = .next t)
    (hv : t.fg.rspValid = true) : LineErrorsExclusive t.fg.rsp := by
  rcases execSend_next h with ⟨-, -, rfl⟩ | ⟨-, -, -, rfl⟩ | ⟨-, -, -, rfl⟩ | ⟨hwait, -⟩ |
    ⟨hwait, -⟩ | ⟨hbusy, -⟩
  · exact rspNotOpen_lineErrorsExclusive
  · cases hv
  · exact rspDone_lineErrorsExclusive
  · cases hp.symm.trans hwait
  · cases hp.symm.trans hwait
  · exact absurd hp hbusy

theorem read_lineErrorsExclusive (hp : s.fg.phase = .idle) (h : exec .read s = .next t) :
    LineErrorsExclusive t.fg.rsp := by
  rcases execRead_next h with ⟨hbusy, -⟩ | ⟨-, -, rfl⟩ | ⟨-, -, -, rfl⟩ | ⟨-, -, -, b, g, -, -, rfl⟩
  · exact absurd hp hbusy
  · exact rspNotOpen_rspNoData_lineErrorsExclusive
  · exact rspEmpty_lineErrorsExclusive _
  · exact rspData_lineErrorsExclusive _ _

/-- Settles O18: by the command; one that holds has not completed. -/
theorem atMostOneLineError : Obligations.AtMostOneLineError := by
  intro i s t hi hp h hv
  change LineErrorsExclusive t.fg.rsp
  cases i with
  | nop => exact response_of_atOnce hp h ▸ rspDone_lineErrorsExclusive
  | openLine baud => exact openLine_lineErrorsExclusive hp h hv
  | closeLine => exact closeLine_lineErrorsExclusive hp h hv
  | send b => exact send_lineErrorsExclusive hp h hv
  | read => exact read_lineErrorsExclusive hp h
  | rsvd7 => exact response_of_atOnce hp h ▸ rspIllegal_lineErrorsExclusive
  | _ => exact hi.elim

end Sys2Proof.Machine
end

section
/-! PROOFS: the two handlers commute (60_exceptions.md R270). Neither reads what the other writes
(10_state.md R44), so each does to the state the other leaves what it does to the state before; and where
`ISR.DRE` stops, it stops in either order. -/

namespace Sys2Proof.Machine

variable {s t a : State}

theorem andThen_congr {o : Host.Outcome State Fault Refusal}
    {k l : State → Host.Outcome State Fault Refusal} (h : ∀ t, o = .next t → k t = l t) :
    andThen o k = andThen o l := by
  cases o with
  | next t => exact h t rfl
  | fault r => rfl
  | refused r => rfl

theorem exec_isrDre_of_unwritten (hi : s.irqTx = true) (he : s.txEmptyIsr = false)
    (hb : Mem.read (w := 8) s.fg.txMem (idx s.cfg.nTx s.isr.txRptr) = none) :
    exec .isrDre s = .fault (.unwrittenEntry .txmem (idx s.cfg.nTx s.isr.txRptr)) := by
  simp only [exec, execIsrDre, State.popTx, hi, he, hb]
  rfl

/-- `ISR.RXC` reads nothing that `ISR.DRE` writes. -/
theorem exec_isrRxc_writtenBy_isrDre (u : State) (h : exec .isrRxc s = .next a) :
    exec .isrRxc (s.writtenBy .isrDre u) = .next ((s.writtenBy .isrDre u).writtenBy .isrRxc a) := by
  rcases execIsrRxc_next h with ⟨hirq, rfl⟩ | ⟨hirq, hf, rfl⟩ | ⟨hirq, hf, rfl⟩
  · exact exec_isrRxc_of_no_trigger hirq
  · exact exec_isrRxc_of_full hirq hf
  · exact exec_isrRxc_of_room hirq hf

/-- `ISR.DRE` reads nothing that `ISR.RXC` writes. -/
theorem exec_isrDre_writtenBy_isrRxc (s u : State) :
    exec .isrDre (s.writtenBy .isrRxc u) =
      andThen (exec .isrDre s) fun t => .next (t.writtenBy .isrRxc u) := by
  cases hirq : s.irqTx with
  | false =>
    rw [exec_isrDre_of_no_trigger hirq]
    exact exec_isrDre_of_no_trigger hirq
  | true =>
    cases he : s.txEmptyIsr with
    | true =>
      rw [exec_isrDre_of_empty hirq he]
      exact exec_isrDre_of_empty hirq he
    | false =>
      cases hb : Mem.read (w := 8) s.fg.txMem (idx s.cfg.nTx s.isr.txRptr) with
      | none =>
        rw [exec_isrDre_of_unwritten hirq he hb]
        exact exec_isrDre_of_unwritten hirq he hb
      | some b =>
        rw [exec_isrDre_of_data hirq he hb]
        exact exec_isrDre_of_data hirq he hb

/-- Settles O22: in either order the outcome is `ISR.DRE`'s with what `ISR.RXC` writes added to it. -/
theorem handlersCommute : Obligations.HandlersCommute := by
  intro s
  obtain ⟨a, ha⟩ := exec_answers_of_not_readsEntry (i := .isrRxc) id s
  have hwrites : a = s.writtenBy .isrRxc a := execIsrRxc_writes ha
  have hrxc : ∀ t, exec .isrDre s = .next t → .next (t.writtenBy .isrRxc a) = exec .isrRxc t := by
    intro t ht
    rw [execIsrDre_writes ht]
    exact (exec_isrRxc_writtenBy_isrDre t ha).symm
  calc andThen (exec .isrRxc s) (exec .isrDre)
      = exec .isrDre (s.writtenBy .isrRxc a) := by rw [andThen_of_next ha, ← hwrites]
    _ = andThen (exec .isrDre s) fun t => .next (t.writtenBy .isrRxc a) :=
        exec_isrDre_writtenBy_isrRxc s a
    _ = andThen (exec .isrDre s) (exec .isrRxc) := andThen_congr hrxc

end Sys2Proof.Machine
end

section
/-! PROOFS: the reset event (70_reset_and_hazards.md R300, R303, R304). -/

namespace Sys2Proof.Machine

/-- Settles O59: the event's step is `State.hardReset`, at either level and in every state. -/
theorem resetEvent : Obligations.ResetEvent := fun s =>
  show stepEvent .reset s = .next s.hardReset from rfl

end Sys2Proof.Machine
end
